-- ==== Sys2Proof/Word.lean ====
section
/-! DEFINITION. The encoded words of `spec/30_encoding.md` rule R80: the 16-bit configuration descriptor
and the 2-bit command code. Every other number of the core is a mathematical integer or an exact
rational (rule R10) and is modelled by `Nat`, `Int` or `Rat`. -/

namespace Sys2Proof

/-- DESC16, the configuration descriptor (R80 (1), R81); bit 0 is the least significant. -/
abbrev Desc := BitVec 16

/-- CMD2, the command code (R80 (2), R85). -/
abbrev CmdCode := BitVec 2

/-- The two encoded objects of R80. -/
inductive CodeWord where
  | desc16 (d : Desc)
  | cmd2 (c : CmdCode)
deriving DecidableEq, Repr

end Sys2Proof
end

