-- ==== Sys2Proof/Config.lean ====
section
/-! DEFINITION. Constants the spec fixes for every build. The spec leaves no value open that an operation
reads: sequence tables, sizes and levels are parameters of CONSTRUCT (R9) and stand in the state, so no
free value is needed here. The accumulator width `ACC_W` is "not modelled" (R9, R25, D11; log 16). -/

namespace Sys2Proof.Config

/-- The largest legal DEPTH of RELU.SR (R170: "`depth` must be ≤ 127"). -/
def reluSrDepthMax : Int := 127

/-- Error codes of R190. -/
def errNone : BitVec 2 := 0
/-- ConfigurationError is code 1 (R190). -/
def errConfiguration : BitVec 2 := 1
/-- ShapeMismatchError is code 2 (R190). -/
def errShapeMismatch : BitVec 2 := 2
/-- PreconditionViolation is code 3 (R190). -/
def errPrecondition : BitVec 2 := 3

end Sys2Proof.Config
end

