-- ==== Sys2Proof/Syntax.lean ====
section
/-! DEFINITION. The instructions: one constructor per row of `spec/opcode_table.json`, 22 operations (R82)
and 4 command codes (R85). The operands of an operation are the descriptor fields its row reads besides
the fixed ones (R82, column "fields it reads"); ignored fields (R84 (d)) are no operands. -/

namespace Sys2Proof

/-- `rounding ∈ {round, floor, ceil}` (R45, R150). -/
inductive Rounding where
  | round
  | floor
  | ceil
deriving DecidableEq, Repr

/-- The field RND (R81): three legal codes and code 3, which R84 (c) makes a ConfigurationError. -/
inductive RndField where
  | mode (r : Rounding)
  | reserved
deriving DecidableEq, Repr

/-- The field KEEP, `keep_res ∈ {input, output}` (R45, R81). -/
inductive KeepField where
  | input
  | output
deriving DecidableEq, Repr

/-- The field MORE, `more_res ∈ {input, weight}` (R45, R81); codes 2 and 3 are invalid where they are
examined (R84 (c), R156). -/
inductive MoreField where
  | input
  | weight
  | code2
  | code3
deriving DecidableEq, Repr

/-- One constructor per row of the operation map (R82) and of the command codes (R85). -/
inductive Instr where
  /-- BSG.U, unipolar generate (R101). -/
  | bsgU
  /-- BSG.B, bipolar generate (R102). -/
  | bsgB
  /-- MUL.AND (R110). -/
  | mulAND
  /-- MUL.XNOR (R111). -/
  | mulXNOR
  /-- MUL.SU, static unipolar multiplier (R112). -/
  | mulSU
  /-- MUL.SB, static bipolar multiplier (R113). -/
  | mulSB
  /-- MUL.IS, in-stream multiplication, always a ConfigurationError (R114). -/
  | mulIS
  /-- ADD.SC, scaled counting add (R121). -/
  | addSC
  /-- ADD.NSU, non-scaled counting add, unipolar (R122). -/
  | addNSU
  /-- ADD.NSB, non-scaled counting add, bipolar (R123). -/
  | addNSB
  /-- ADD.GMUX, Gaines scaled add (R127). -/
  | addGMUX
  /-- ADD.GOR, Gaines non-scaled add, unipolar (R128). -/
  | addGOR
  /-- ADD.GNSB, Gaines non-scaled add, bipolar, always a ConfigurationError (R129). -/
  | addGNSB
  /-- LIN.U.RC (R140). -/
  | linURC (scaled bias : Bool)
  /-- LIN.U.TC (R141). -/
  | linUTC (scaled bias : Bool)
  /-- LIN.B.RC (R142). -/
  | linBRC (scaled bias : Bool)
  /-- LIN.B.TC (R143). -/
  | linBTC (scaled bias : Bool)
  /-- LIN.HUB (R154). -/
  | linHUB (bias : Bool) (rnd : RndField)
  /-- LIN.FXP (R158). -/
  | linFXP (bias : Bool) (rnd : RndField) (keep : KeepField) (more : MoreField)
  /-- RELU.RC (R166). -/
  | reluRC
  /-- RELU.SR (R170). -/
  | reluSR
  /-- RELU.TC (R174). -/
  | reluTC
  /-- The command CONSTRUCT (R181). -/
  | construct
  /-- The command STEP (R182). -/
  | step
  /-- The command REPLACE (R183). -/
  | replace
  /-- The reserved command code `11` (R85, U9). -/
  | cmdReserved
deriving DecidableEq, Repr

end Sys2Proof
end

