-- ==== Sys2Proof/Machine/State.lean ====
section
/-! DEFINITION. The state of the machine as plain data (`spec/10_state.md`): the constructed instances with
their configuration, tables and registers, the caller's commands not yet executed, and the reports given
back. Tensors are nested lists indexed in the order of R11; a tensor a variant does not have is empty. -/

namespace Sys2Proof.Machine

/-- The data registers of one instance (R22). A register the instance's operation does not have stays at
the empty tensor, 0 or false. -/
structure Regs where
  /-- `c1[b][l]`, the counter advanced when the live bit is 1 (R22, R23). -/
  c1 : List (List Nat)
  /-- `c0[b][l]`, the counter advanced when the live bit is 0 (R22, R23). -/
  c0 : List (List Nat)
  /-- `acc[b][o]` of the scaled forms (R24). -/
  acc : List (List Nat)
  /-- `acc[b][o]` of the non-scaled forms, held as the integer `ACC2 = 2·acc` (R25; log 7). -/
  acc2 : List (List Int)
  /-- `oacc[b][o]`, the output 1-bits emitted (R25). -/
  oacc : List (List Nat)
  /-- `mc`, the MUX index position (R22, R127). -/
  mc : Nat
  /-- `cw[b][o][i]`, the weight counters (R22, R139). -/
  cw : List (List (List Nat))
  /-- `cwi[b][o][i]`, the inverted-weight counters (R22, R139). -/
  cwi : List (List (List Nat))
  /-- `cb[o]`, the bias counters, shared by the batch (R22, R139). -/
  cb : List Nat
  /-- `racc[b][l]`, the saturating accumulator of RELU.RC (R166). -/
  racc : List (List Nat)
  /-- `ring[b][l]`, the last DEPTH output bits, oldest first (R28). -/
  ring : List (List (List Bool))
  /-- `pop[b][l]`, the number of 1s in the ring (R28). -/
  pop : List (List Nat)
  /-- `first`, set until the first STEP of RELU.SR (R27). -/
  first : Bool
  /-- `cyc`, the cycle counter of RELU.TC (R26). -/
  cyc : Nat
  /-- `tacc[b][l]`, the input 1-bits seen by RELU.TC (R22). -/
  tacc : List (List Nat)
deriving DecidableEq, Repr

/-- Every register absent: what the resets of the operations start from. -/
def Regs.none : Regs :=
  { c1 := [], c0 := [], acc := [], acc2 := [], oacc := [], mc := 0, cw := [], cwi := [], cb := [], racc := [],
    ring := [], pop := [], first := false, cyc := 0, tacc := [] }

/-- One constructed instance (R20): its operation, configuration (R40 to R46), tables (R60 to R64),
registers (R22) and status (R27). -/
structure Inst where
  /-- The operation selected at construction, with the descriptor fields it reads (R3, R83). -/
  op : Instr
  /-- `B` (R42). -/
  bitwidth : Nat
  /-- `DEPTH` (R43). -/
  depth : Nat
  /-- `N`, the size of the reduction axis (R46). -/
  n : Nat
  /-- `O`, the number of output lanes (R46). -/
  o : Nat
  /-- `E`, the number of element lanes (R46). -/
  e : Nat
  /-- The current batch size (R29, R47). -/
  batch : Nat
  /-- The index-sequence table of the first generator: S, S1 or Sw (R60). -/
  seq : List Int
  /-- The table of the second generator: S0 or Swi (R60). -/
  seq0 : List Int
  /-- The table of the bias generator, Sb (R60). -/
  seqb : List Int
  /-- The MUX index table (R64). -/
  muxSeq : List Nat
  /-- The levels `M[l]` (R62). -/
  m : List Int
  /-- The weight levels `Mw[o][i]` (R62). -/
  mw : List (List Int)
  /-- The bias levels `Mb[o]` (R62). -/
  mb : List Int
  /-- The rational weights `w[o][i]` of the fast paths (R62). -/
  w : List (List Rat)
  /-- The rational bias `c[o]` of the fast paths (R62). -/
  c : List Rat
  /-- The HUB lookup table `LUT[a][w]` (R63, R151). -/
  lut : List (List Nat)
  /-- The FXP input budget (R156). -/
  bi : Nat
  /-- The FXP weight budget (R156). -/
  bw : Nat
  regs : Regs
  /-- `dead`, set by an error, never cleared (R27, R197). -/
  dead : Bool
  /-- `err`, the code of the error that set `dead` (R27, R190). -/
  err : BitVec 2
deriving DecidableEq, Repr

/-- The input signals of one STEP (R182), one form per kind of operand. -/
inductive Inputs where
  /-- `idx[b][l]` of BSG, integers ≥ 0 (R101). -/
  | indices (idx : List (List Nat))
  /-- `a[b][l]` and `b[b][l]` of the gate multipliers (R110, R111). -/
  | pairs (a b : List (List Bool))
  /-- One bit per batch entry and lane: `a[b][l]` (R112), `x[b][i]` (R135), `x[b][l]` (R165). -/
  | lanes (x : List (List Bool))
  /-- `x[b][i][o]` of the adders (R120). -/
  | axes (x : List (List (List Bool)))
  /-- `x[b][i]` of the fast paths, exact rationals (R161). -/
  | reals (x : List (List Rat))
deriving DecidableEq, Repr

/-- Where a STEP's inputs come from: given by the caller, or the outputs other instances produced in this
simulation cycle, which the caller hands on (R185; log 9). Producers are named by handle. -/
inductive Feed where
  /-- Inputs the caller supplies. -/
  | given (x : Inputs)
  /-- The producers' output lanes side by side. -/
  | lanesOf (producers : List Nat)
  /-- Two producers as the two operands of a gate. -/
  | pairOf (p q : Nat)
  /-- One producer per reduction lane of an adder. -/
  | axesOf (producers : List Nat)
deriving DecidableEq, Repr

/-- The output signals of one STEP: bits, or the rationals of a fast path (R161). -/
inductive Outputs where
  | bits (y : List (List Bool))
  | reals (y : List (List Rat))
deriving DecidableEq, Repr

/-- The table selector of REPLACE (R183; the last two are the rational tensors of the fast paths, log 20). -/
inductive Which where
  | levels
  | weightLevels
  | biasLevels
  | weights
  | bias
deriving DecidableEq, Repr

/-- A new table of REPLACE (R183). -/
inductive Table where
  | ints1 (t : List Int)
  | ints2 (t : List (List Int))
  | rats1 (t : List Rat)
  | rats2 (t : List (List Rat))
deriving DecidableEq, Repr

/-- The parameter record of CONSTRUCT (R86): mathematical integers and arrays; a table not supplied is
`none`. -/
structure Params where
  bitwidth : Int
  depth : Int
  n : Int
  o : Int
  e : Int
  batch : Int
  seq : Option (List Int)
  seq0 : Option (List Int)
  seqb : Option (List Int)
  muxSeq : Option (List Nat)
  m : Option (List Int)
  mw : Option (List (List Int))
  mb : Option (List Int)
  w : Option (List (List Rat))
  c : Option (List Rat)
deriving DecidableEq, Repr

/-- One command as the caller presents it: the code and every operand signal (R85, R86). A code reads the
signals its rule names; the others are ignored. -/
structure Command where
  /-- CMD2 (R85). -/
  code : CmdCode
  /-- The handle of the addressed instance (STEP, REPLACE). -/
  inst : Nat
  /-- DESC16 (CONSTRUCT). -/
  desc : Desc
  /-- The parameter record (CONSTRUCT). -/
  params : Params
  /-- The cycle's inputs (STEP). -/
  feed : Feed
  /-- The table selector (REPLACE). -/
  which : Which
  /-- The new table (REPLACE). -/
  table : Table
deriving DecidableEq, Repr

/-- The seven causes of ConfigurationError (R191). -/
inductive ConfigCause where
  | gainesNonscaledBipolar
  | inStreamMultiplication
  | reluSrDepth
  | invalidMoreRes
  | reserved
  | invalidRounding
  | parameterRange
deriving DecidableEq, Repr

/-- The tables whose shape CONSTRUCT checks (R192). -/
inductive ShapedTable where
  | weight
  | bias
deriving DecidableEq, Repr

/-- The three error classes with their recorded information (R190 to R193). -/
inductive CoreError where
  | configuration (cause : ConfigCause)
  | shapeMismatch (which : ShapedTable) (expected found : List Nat)
  | precondition (muxIndex axisSize : Nat)
deriving DecidableEq, Repr

/-- Why a command is refused (`93_implementation_defined.md`): it is not performed, nothing changes, and
the caller is told. None of these is an error of the core (R194). -/
inductive Decline where
  /-- A level outside `[0, P]` (U1, U8). -/
  | levelRange
  /-- A sequence table of the wrong length or with a value outside `[0, P)` (U2). -/
  | sequenceTable
  /-- A level table of CONSTRUCT whose length is not `E` (log 11). -/
  | levelTableLength
  /-- A table the operation needs is missing (U13). -/
  | missingTable
  /-- A batch size other than the instance's, and no one-time growth (U3). -/
  | batchSize
  /-- The handle names no instance (U5). -/
  | noInstance
  /-- Inputs of the wrong kind or shape (U6). -/
  | inputShape
  /-- A producer named by the feed has no output of its latest STEP (R224; log 9). -/
  | noProducerOutput
  /-- The instance is dead (U7). -/
  | deadInstance
  /-- REPLACE of a table the instance does not have (U8). -/
  | noSuchTable
  /-- REPLACE with a table of another shape (U8). -/
  | tableShape
  /-- Command code `11` (U9). -/
  | reservedCommand
deriving DecidableEq, Repr

/-- What a command returns to the caller (R180, R182, R196). -/
inductive Response where
  /-- CONSTRUCT created the instance with this handle (R181). -/
  | constructed (handle : Nat)
  /-- STEP returned the cycle's outputs (R182). -/
  | stepped (y : Outputs)
  /-- REPLACE was performed (R183). -/
  | replaced
  /-- The command failed with an error (R196). -/
  | failed (e : CoreError)
  /-- The command was refused. -/
  | declined (why : Decline)
deriving DecidableEq, Repr

/-- One report: the code and handle of the command it answers, and the answer (log 2). -/
structure Report where
  code : CmdCode
  inst : Nat
  response : Response
deriving DecidableEq, Repr

/-- The state of the machine. -/
structure State where
  /-- The constructed instances; the handle of an instance is its position (R181; log 3). -/
  insts : List Inst
  /-- The caller's commands not yet executed, the next one first (log 1). -/
  commands : List Command
  /-- What the executed commands returned, newest first (log 2). -/
  reports : List Report
deriving DecidableEq, Repr

/-- Why a step can stop. Both reasons belong to `exec` called outside a command of the caller; `step` from
a state whose instances are legal never answers one of them (log 23). -/
inductive Fault where
  /-- Raised by every meaning when no command is presented. Safe: the core does nothing without a command
  (R180), and `step` idles then. -/
  | noCommand
  /-- Raised by an operation's meaning when the addressed instance was constructed with another operation.
  Safe: an instance performs only its own operation (R3), and STEP runs no other. -/
  | wrongOperation
deriving DecidableEq, Repr

/-- Why the model has no meaning for an instruction. -/
inductive Refusal where
  /-- Raised by an arm of `exec` for an instruction that has no meaning yet; no arm raises it now. Safe. -/
  | notModelled (mnemonic : String)
deriving DecidableEq, Repr

/-- Right after reset: no instance has been constructed (R215, R218), no command is presented and none has
been answered (log 1, log 2). -/
def State.reset : State := { insts := [], commands := [], reports := [] }

end Sys2Proof.Machine
end

