-- ==== Sys2Proof/Machine/Flags.lean ====
section
/-! DEFINITION. The status registers (R27). There are no condition codes; the one-bit registers are `first`
(RELU.SR) and `dead` (every unit), and `err` holds the code of the error that set `dead`. -/

namespace Sys2Proof.Machine

/-- `dead = 1`: every command on the instance is refused (R27, R197). -/
def Inst.isDead (n : Inst) : Bool := n.dead

/-- The numeric code of an error class (R190). -/
def errCode : CoreError → BitVec 2
  | .configuration _ => Config.errConfiguration
  | .shapeMismatch _ _ _ => Config.errShapeMismatch
  | .precondition _ _ => Config.errPrecondition

/-- What an error leaves of the instance it was raised on: `dead = 1` and `err` the code; no data register,
no table and no configuration field is written (R196). -/
def killed (n : Inst) (e : CoreError) : Inst := { n with dead := true, err := errCode e }

/-- The value of `first` at reset: set (R27, R49). -/
def firstAtReset : Bool := true

/-- The value of `first` after a STEP: cleared, and never set again (R27, R170). -/
def firstAfterStep : Bool := false

end Sys2Proof.Machine
end

