-- ==== Sys2Proof/Machine/Tensor.lean ====
section
/-! DEFINITION. Tensors as nested lists, read and built by index (R11). Reading outside a tensor answers the
element type's default, 0 or false; no rule reads there on an instance CONSTRUCT made (log 29). -/

namespace Sys2Proof.Machine

/-- Element `i` of a tensor of one index. -/
def at1 {α : Type} [Inhabited α] (t : List α) (i : Nat) : α := t.getD i default

/-- Element `(i, j)`. -/
def at2 {α : Type} [Inhabited α] (t : List (List α)) (i j : Nat) : α := at1 (at1 t i) j

/-- Element `(i, j, k)`. -/
def at3 {α : Type} [Inhabited α] (t : List (List (List α))) (i j k : Nat) : α := at1 (at2 t i j) k

/-- The tensor with element `f i` at `i < r`. -/
def tab1 {α : Type} (r : Nat) (f : Nat → α) : List α := (List.range r).map f

/-- The tensor with element `f i j` at `i < r`, `j < c`. -/
def tab2 {α : Type} (r c : Nat) (f : Nat → Nat → α) : List (List α) := tab1 r (fun i => tab1 c (f i))

/-- The tensor with element `f i j k` at `i < r`, `j < c`, `k < d`. -/
def tab3 {α : Type} (r c d : Nat) (f : Nat → Nat → Nat → α) : List (List (List α)) :=
  tab1 r (fun i => tab2 c d (f i))

/-- `Σ_i f i` over `i ∈ [0, n)` in the naturals (R11). -/
def sumNat (n : Nat) (f : Nat → Nat) : Nat := ((List.range n).map f).sum

/-- `Σ_i f i` over `i ∈ [0, n)` in the integers (R11). -/
def sumInt (n : Nat) (f : Nat → Int) : Int := ((List.range n).map f).sum

/-- `Σ_i f i` over `i ∈ [0, n)` in the rationals (R11). -/
def sumRat (n : Nat) (f : Nat → Rat) : Rat := ((List.range n).map f).sum

/-- The tensor of one index has `r` elements. -/
def hasShape1 {α : Type} (r : Nat) (t : List α) : Bool := t.length == r

/-- The tensor of two indices has shape `r × c`. -/
def hasShape2 {α : Type} (r c : Nat) (t : List (List α)) : Bool :=
  t.length == r && t.all (fun u => u.length == c)

/-- The tensor of three indices has shape `r × c × d`. -/
def hasShape3 {α : Type} (r c d : Nat) (t : List (List (List α))) : Bool :=
  t.length == r && t.all (hasShape2 c d)

/-- The tensor with batch entry 0 copied to `k` entries (R47); an absent tensor stays absent. -/
def growBatch {α : Type} (k : Nat) : List α → List α
  | [] => []
  | r :: _ => List.replicate k r

end Sys2Proof.Machine
end

