-- ==== Sys2Proof/Machine/Ops.lean ====
section
/-! DEFINITION. The named operations the meanings share: table reads, the generator, counter advance, the
output stages of the adders, and how a command ends (answered, refused, or failed with an error). -/

namespace Sys2Proof.Machine

/-- `P = 2^B`, the period of an index sequence (R8). -/
def period (bitwidth : Nat) : Nat := 2 ^ bitwidth

/-- The instance's period. -/
def Inst.period (n : Inst) : Nat := Machine.period n.bitwidth

/-- A bit as an integer of a sum (R10). -/
def bitNat (b : Bool) : Nat := b.toNat

/-- `SeqRead(S, k) = S[k mod P]` (R60). -/
def seqRead (p : Nat) (s : List Int) (k : Nat) : Int := at1 s (k % p)

/-- `Gen(M, k, S) = (SeqRead(S, k) < M)` (R100). -/
def gen (p : Nat) (s : List Int) (m : Int) (k : Nat) : Bool := decide (seqRead p s k < m)

/-- `ST.c <- (ST.c + e) mod P` with `e ∈ {0,1}` (R23). -/
def advance (p c : Nat) (e : Bool) : Nat := (c + bitNat e) % p

/-- The table has the contract's length and range: `P` integers in `[0, P)` (R60, U2). -/
def legalSequence (p : Nat) (s : List Int) : Bool :=
  s.length == p && s.all (fun v => decide (0 ≤ v ∧ v < (p : Int)))

/-- A level in `[0, P]` (R62, U1). -/
def legalLevel (p : Nat) (v : Int) : Bool := decide (0 ≤ v ∧ v ≤ (p : Int))

/-! ### Output stages of the counting adders -/

/-- Output of the scaled stage: `a' >= bound` with `a' = acc + s` (R121). -/
def scaledOut (bound acc s : Nat) : Bool := decide (acc + s ≥ bound)

/-- The scaled accumulator afterwards: `a' - bound * out` (R121). -/
def scaledNext (bound acc s : Nat) : Nat := acc + s - bound * bitNat (scaledOut bound acc s)

/-- `2·a' = 2·acc + 2·s − 2·offset` of the non-scaled stage (R122, R123; R25 for the doubled form). -/
def nonscaledSum (offset2 : Int) (acc2 : Int) (s : Nat) : Int := acc2 + 2 * (s : Int) - offset2

/-- Output of the non-scaled stage: `a' > oacc` (R122, R123). -/
def nonscaledOut (offset2 acc2 : Int) (oacc s : Nat) : Bool :=
  decide (nonscaledSum offset2 acc2 s > 2 * (oacc : Int))

/-- The out-accumulator afterwards: `oacc + out` (R122, R123). -/
def nonscaledOacc (offset2 acc2 : Int) (oacc s : Nat) : Nat :=
  oacc + bitNat (nonscaledOut offset2 acc2 oacc s)

/-- `bound` is the size of the reduction axis, one more with a bias lane (R8). -/
def boundOf (n : Nat) (bias : Bool) : Nat := n + bitNat bias

/-- `2·offset`: `bound − 1` in bipolar mode, 0 in unipolar mode (R8). -/
def offsetTwice (bipolar : Bool) (bound : Nat) : Int := if bipolar then (bound : Int) - 1 else 0

/-! ### How a command ends -/

/-- The command is retired and its answer reported to the caller. -/
def answer (s : State) (c : Command) (r : Response) : State :=
  { s with commands := s.commands.tail, reports := { code := c.code, inst := c.inst, response := r } :: s.reports }

/-- Replaces the instance at a handle. -/
def setInst (s : State) (k : Nat) (n : Inst) : State := { s with insts := s.insts.set k n }

/-- A refusal: nothing changes but that the command is retired and the refusal reported
(`93_implementation_defined.md`, treatment "refuse"; log 4). -/
def decline (s : State) (c : Command) (why : Decline) : Host.Outcome State Fault Refusal :=
  .next (answer s c (.declined why))

/-- Raising an error, the core's taking of an exception (R196). At CONSTRUCT (`victim = none`) no instance
exists afterwards; at STEP the instance at the handle is dead. The error and its recorded information are
returned in place of the result. Nothing is saved and control goes nowhere: there is no handler, and no
return from an error either (R197), so nothing stands beside this operation. -/
def raiseError (s : State) (c : Command) (victim : Option Nat) (e : CoreError) : Host.Outcome State Fault Refusal :=
  match victim with
  | none => .next (answer s c (.failed e))
  | some k =>
    match s.insts[k]? with
    | none => .next (answer s c (.failed e))
    | some n => .next (answer (setInst s k (killed n e)) c (.failed e))

/-- Raises a ConfigurationError for the presented command (R191): no instance is created. -/
def raiseConfiguration (cause : ConfigCause) (s : State) : Host.Outcome State Fault Refusal :=
  match s.commands with
  | [] => .fault .noCommand
  | c :: _ => raiseError s c none (.configuration cause)

end Sys2Proof.Machine
end

