-- ==== Sys2Proof/Machine/Operands.lean ====
section
/-! DEFINITION. The operands of an operation: what kind of inputs it takes (R182), reading them by index,
the wiring of inputs to other instances' outputs (R185), and the shape check with the one-time batch
growth (R47). -/

namespace Sys2Proof.Machine

/-- The kinds of per-cycle input (R182: "those its rule names"). -/
inductive InputKind where
  /-- Indices per element lane (BSG). -/
  | indices
  /-- Two bits per element lane (gate multipliers). -/
  | pairs
  /-- One bit per element lane (static multipliers, RELU). -/
  | elements
  /-- One bit per input lane (LIN exact). -/
  | features
  /-- One bit per reduction lane and output lane (ADD). -/
  | axes
  /-- One rational per input lane (LIN fast paths). -/
  | reals
  /-- No cycle exists: MUL.IS, ADD.GNSB and the command codes. -/
  | nothing
deriving DecidableEq, Repr

/-- The input each operation takes. -/
def inputKind : Instr → InputKind
  | .bsgU => .indices
  | .bsgB => .indices
  | .mulAND => .pairs
  | .mulXNOR => .pairs
  | .mulSU => .elements
  | .mulSB => .elements
  | .mulIS => .nothing
  | .addSC => .axes
  | .addNSU => .axes
  | .addNSB => .axes
  | .addGMUX => .axes
  | .addGOR => .axes
  | .addGNSB => .nothing
  | .linURC _ _ => .features
  | .linUTC _ _ => .features
  | .linBRC _ _ => .features
  | .linBTC _ _ => .features
  | .linHUB _ _ => .reals
  | .linFXP _ _ _ _ => .reals
  | .reluRC => .elements
  | .reluSR => .elements
  | .reluTC => .elements
  | .construct => .nothing
  | .step => .nothing
  | .replace => .nothing
  | .cmdReserved => .nothing

/-! ### Reading the inputs -/

/-- `idx[b][l]`. -/
def Inputs.index (x : Inputs) (b l : Nat) : Nat :=
  match x with
  | .indices t => at2 t b l
  | _ => 0

/-- `a[b][l]` of a pair. -/
def Inputs.left (x : Inputs) (b l : Nat) : Bool :=
  match x with
  | .pairs a _ => at2 a b l
  | _ => false

/-- `b[b][l]` of a pair. -/
def Inputs.right (x : Inputs) (b l : Nat) : Bool :=
  match x with
  | .pairs _ t => at2 t b l
  | _ => false

/-- The one bit at batch entry `b` and lane `l`. -/
def Inputs.bit (x : Inputs) (b l : Nat) : Bool :=
  match x with
  | .lanes t => at2 t b l
  | _ => false

/-- `x[b][i][o]` of an adder. -/
def Inputs.axis (x : Inputs) (b i o : Nat) : Bool :=
  match x with
  | .axes t => at3 t b i o
  | _ => false

/-- `x[b][i]` of a fast path. -/
def Inputs.real (x : Inputs) (b i : Nat) : Rat :=
  match x with
  | .reals t => at2 t b i
  | _ => 0

/-- The batch size of the inputs: the length of the batch index. -/
def Inputs.batch : Inputs → Nat
  | .indices t => t.length
  | .pairs a _ => a.length
  | .lanes t => t.length
  | .axes t => t.length
  | .reals t => t.length

/-- The inputs are of the operation's kind and have its shape with `k` batch entries (R182). -/
def Inst.fitsAt (n : Inst) (k : Nat) (x : Inputs) : Bool :=
  match inputKind n.op, x with
  | .indices, .indices t => hasShape2 k n.e t
  | .pairs, .pairs a b => hasShape2 k n.e a && hasShape2 k n.e b
  | .elements, .lanes t => hasShape2 k n.e t
  | .features, .lanes t => hasShape2 k n.n t
  | .axes, .axes t => hasShape3 k n.n n.o t
  | .reals, .reals t => hasShape2 k n.n t
  | _, _ => false

/-- The inputs have the shape fixed at construction, with the instance's current batch size. -/
def Inst.fits (n : Inst) (x : Inputs) : Bool := n.fitsAt n.batch x

/-! ### One-time batch growth -/

/-- Every batch-indexed register with entry 0 copied to `k` entries (R47). `mc`, `cb`, `first` and `cyc`
have no batch index. -/
def Regs.grow (k : Nat) (r : Regs) : Regs :=
  { r with
    c1 := growBatch k r.c1, c0 := growBatch k r.c0, acc := growBatch k r.acc, acc2 := growBatch k r.acc2,
    oacc := growBatch k r.oacc, cw := growBatch k r.cw, cwi := growBatch k r.cwi, racc := growBatch k r.racc,
    ring := growBatch k r.ring, pop := growBatch k r.pop, tacc := growBatch k r.tacc }

/-- The instance expanded to `k` batch entries (R47). -/
def Inst.grow (k : Nat) (n : Inst) : Inst := { n with batch := k, regs := n.regs.grow k }

/-- The instance that executes the STEP: itself when the inputs fit; grown when its batch size is 1 and the
inputs have the operation's shape with a larger batch (R47, R226); otherwise the STEP is refused, as a
change of batch size (U3) or as a wrong shape (U6). -/
def Inst.admitted (n : Inst) (x : Inputs) : Except Decline Inst :=
  if n.fits x then .ok n
  else if n.fitsAt x.batch x then
    (if n.batch = 1 ∧ x.batch > 1 then .ok (n.grow x.batch) else .error .batchSize)
  else .error .inputShape

/-! ### Wiring -/

/-- The outputs the latest STEP of instance `p` returned, if that STEP returned any (R185, R224). -/
def lastOutput (reports : List Report) (p : Nat) : Option Outputs :=
  match reports.find? (fun r => r.code == 1 && r.inst == p) with
  | some { code := _, inst := _, response := .stepped y } => some y
  | _ => none

/-- All the values, if every one is present. -/
def allSome {α : Type} : List (Option α) → Option (List α)
  | [] => some []
  | none :: _ => none
  | some a :: rest =>
    match allSome rest with
    | none => none
    | some as => some (a :: as)

/-- The bits of an output, if it is bits. -/
def Outputs.bits? : Outputs → Option (List (List Bool))
  | .bits y => some y
  | .reals _ => none

/-- The rationals of an output, if it is rationals. -/
def Outputs.reals? : Outputs → Option (List (List Rat))
  | .bits _ => none
  | .reals y => some y

/-- Lanes side by side in every batch entry, when all parts have the same batch size. -/
def besides {α : Type} (parts : List (List (List α))) : Option (List (List α)) :=
  match parts with
  | [] => none
  | t :: _ =>
    if parts.all (fun u => u.length == t.length) then
      some (tab1 t.length (fun b => (parts.map (fun u => at1 u b)).flatten))
    else none

/-- One part per reduction lane: element `(b, i, o)` is element `(b, o)` of part `i`. -/
def stacked {α : Type} (parts : List (List (List α))) : Option (List (List (List α))) :=
  match parts with
  | [] => none
  | t :: _ =>
    if parts.all (fun u => u.length == t.length) then
      some (tab1 t.length (fun b => parts.map (fun u => at1 u b)))
    else none

/-- The inputs a feed stands for (R185: a producer's cycle-`t` output is the consumer's cycle-`t` input;
no latency and no register of the connection's own). -/
def Feed.resolve (f : Feed) (reports : List Report) : Option Inputs :=
  match f with
  | .given x => some x
  | .lanesOf ps =>
    match allSome (ps.map (lastOutput reports)) with
    | none => none
    | some ys =>
      match allSome (ys.map Outputs.bits?), allSome (ys.map Outputs.reals?) with
      | some parts, _ => (besides parts).map Inputs.lanes
      | none, some parts => (besides parts).map Inputs.reals
      | none, none => none
  | .pairOf p q =>
    match lastOutput reports p, lastOutput reports q with
    | some (.bits a), some (.bits b) => some (.pairs a b)
    | _, _ => none
  | .axesOf ps =>
    match allSome (ps.map (fun p => (lastOutput reports p).bind Outputs.bits?)) with
    | none => none
    | some parts => (stacked parts).map Inputs.axes

end Sys2Proof.Machine
end

