-- ==== Sys2Proof/Machine/Cycle.lean ====
section
/-! DEFINITION. One cycle of an operation on the addressed instance (R182): the frame every operation's
meaning shares. -/

namespace Sys2Proof.Machine

/-- What the rule of an operation computes from the start-of-cycle registers and the inputs (R182): the new
registers, committed together, with the outputs; or the one error a STEP can raise, with nothing written. -/
inductive CycleResult where
  | commit (r : Regs) (y : Outputs)
  | raise (e : CoreError)
deriving DecidableEq, Repr

/-- One cycle of operation `i` with the rule `body` (R182). In this order: an unknown handle and a dead
instance are refused (U5, U7); inputs that cannot be had, or do not fit, are refused (R224, U3, U6); then
the rule's outputs are computed from the start-of-cycle registers and all its register writes commit
together, or its error is raised with nothing written (R68, R222). -/
def cycle (i : Instr) (body : Inst → Inputs → CycleResult) (s : State) : Host.Outcome State Fault Refusal :=
  match s.commands with
  | [] => .fault .noCommand
  | c :: _ =>
    match s.insts[c.inst]? with
    | none => decline s c .noInstance
    | some n =>
      if n.isDead then decline s c .deadInstance
      else if n.op ≠ i then .fault .wrongOperation
      else
        match c.feed.resolve s.reports with
        | none => decline s c .noProducerOutput
        | some x =>
          match n.admitted x with
          | .error why => decline s c why
          | .ok n' =>
            match body n' x with
            | .commit r y => .next (answer (setInst s c.inst { n' with regs := r }) c (.stepped y))
            | .raise e => raiseError s c (some c.inst) e

end Sys2Proof.Machine
end

