-- ==== Sys2Proof/Machine/Add.lean ====
section
/-! DEFINITION. The stochastic adders (`spec/42_adder.md`). -/

namespace Sys2Proof.Machine

/-- `s[b][o] = Σ_i x[b][i][o]`, the cycle's count (R120). -/
def axisCount (n : Inst) (x : Inputs) (b o : Nat) : Nat := sumNat n.n (fun i => bitNat (x.axis b i o))

/-- The counting adder's scaled output stage on a count per lane, with `bound` (R121, R138). -/
def scaledStage (n : Inst) (bound : Nat) (count : Nat → Nat → Nat) (r : Regs) : CycleResult :=
  .commit
    { r with acc := tab2 n.batch n.o (fun b o => scaledNext bound (at2 n.regs.acc b o) (count b o)) }
    (.bits (tab2 n.batch n.o (fun b o => scaledOut bound (at2 n.regs.acc b o) (count b o))))

/-- The counting adder's non-scaled output stage on a count per lane, with `2·offset` (R122, R123, R138). -/
def nonscaledStage (n : Inst) (offset2 : Int) (count : Nat → Nat → Nat) (r : Regs) : CycleResult :=
  .commit
    { r with
      acc2 := tab2 n.batch n.o (fun b o => nonscaledSum offset2 (at2 n.regs.acc2 b o) (count b o))
      oacc := tab2 n.batch n.o (fun b o =>
        nonscaledOacc offset2 (at2 n.regs.acc2 b o) (at2 n.regs.oacc b o) (count b o)) }
    (.bits (tab2 n.batch n.o (fun b o =>
      nonscaledOut offset2 (at2 n.regs.acc2 b o) (at2 n.regs.oacc b o) (count b o))))

/-- The cycle of ADD.SC with `bound = N` (R121). -/
def addScBody (n : Inst) (x : Inputs) : CycleResult :=
  scaledStage n (boundOf n.n false) (axisCount n x) n.regs

/-- The cycle of ADD.NSU, `offset = 0` (R122). -/
def addNsuBody (n : Inst) (x : Inputs) : CycleResult :=
  nonscaledStage n (offsetTwice false (boundOf n.n false)) (axisCount n x) n.regs

/-- The cycle of ADD.NSB, `offset = (N − 1)/2` subtracted once in every cycle (R123). -/
def addNsbBody (n : Inst) (x : Inputs) : CycleResult :=
  nonscaledStage n (offsetTwice true (boundOf n.n false)) (axisCount n x) n.regs

/-- The cycle of ADD.GMUX (R127): one index `j = MuxSeq[mc]` for every output lane and batch entry; an index
that is not below `N` raises PreconditionViolation with nothing written. -/
def addGmuxBody (n : Inst) (x : Inputs) : CycleResult :=
  let j := at1 n.muxSeq n.regs.mc
  if j ≥ n.n then .raise (.precondition j n.n)
  else
    .commit { n.regs with mc := (n.regs.mc + 1) % n.muxSeq.length }
      (.bits (tab2 n.batch n.o (fun b o => x.axis b j o)))

/-- `x[b][0][o] | ... | x[b][N-1][o]` (R128). -/
def axisOr (n : Inst) (x : Inputs) (b o : Nat) : Bool := (List.range n.n).any (fun i => x.axis b i o)

/-- The cycle of ADD.GOR; stateless (R128). -/
def addGorBody (n : Inst) (x : Inputs) : CycleResult :=
  .commit n.regs (.bits (tab2 n.batch n.o (axisOr n x)))

/-- ADD.SC (R121). -/
def execAddSC (s : State) : Host.Outcome State Fault Refusal := cycle .addSC addScBody s

/-- ADD.NSU (R122). -/
def execAddNSU (s : State) : Host.Outcome State Fault Refusal := cycle .addNSU addNsuBody s

/-- ADD.NSB (R123). -/
def execAddNSB (s : State) : Host.Outcome State Fault Refusal := cycle .addNSB addNsbBody s

/-- ADD.GMUX (R127). -/
def execAddGMUX (s : State) : Host.Outcome State Fault Refusal := cycle .addGMUX addGmuxBody s

/-- ADD.GOR (R128). -/
def execAddGOR (s : State) : Host.Outcome State Fault Refusal := cycle .addGOR addGorBody s

/-- ADD.GNSB (R129): requesting it raises ConfigurationError(gaines_nonscaled_bipolar); no instance ever
exists. -/
def execAddGNSB (s : State) : Host.Outcome State Fault Refusal := raiseConfiguration .gainesNonscaledBipolar s

end Sys2Proof.Machine
end

