-- ==== Sys2Proof/Machine/Rounding.lean ====
section
/-! DEFINITION. Exact rational arithmetic of the fast paths (`spec/44_linear_fastpaths.md`): rounding,
powers of two and the dynamic shift. -/

namespace Sys2Proof.Machine

/-- Round to nearest, ties to even (R150). -/
def roundHalfEven (q : Rat) : Int :=
  let f := q.floor
  let r := q - (f : Rat)
  if r < 1 / 2 then f else if 1 / 2 < r then f + 1 else if f % 2 = 0 then f else f + 1

/-- `Rnd_m(q)` (R150). -/
def rnd (m : Rounding) (q : Rat) : Int :=
  match m with
  | .round => roundHalfEven q
  | .floor => q.floor
  | .ceil => q.ceil

/-- `2^e` for an integer exponent. -/
def pow2 (e : Int) : Rat :=
  match e with
  | .ofNat k => ((2 ^ k : Nat) : Rat)
  | .negSucc k => 1 / ((2 ^ (k + 1) : Nat) : Rat)

/-- The magnitude of a rational. -/
def magnitude (q : Rat) : Rat := if q < 0 then -q else q

/-- The largest magnitude of a list, 0 for the empty list. -/
def maxMagnitude (v : List Rat) : Rat := v.foldl (fun m q => max m (magnitude q)) 0

/-- The least integer `e` with `2^e ≥ q`, for `q > 0` (R152). With `q = a/d` in lowest terms, `q` lies above
`2^(log2 a − log2 d − 1)` and below `2^(log2 a − log2 d + 1)`, so the least exponent is one of two. -/
def ceilLog2 (q : Rat) : Int :=
  let e : Int := (Nat.log2 q.num.toNat : Int) - (Nat.log2 q.den : Int)
  if q ≤ pow2 e then e else e + 1

/-- `Shift(V)` (R152): 0 when every element is 0, else the least `e` with `2^e ≥ max |v|`. -/
def shiftOf (v : List Rat) : Int := if maxMagnitude v = 0 then 0 else ceilLog2 (maxMagnitude v)

end Sys2Proof.Machine
end

