-- ==== Sys2Proof/Machine/Bsg.lean ====
section
/-! DEFINITION. The bitstream generator (`spec/40_bitstream_generator.md`): BSG.U and BSG.B, and the
caller-side conversion of a value to a level. -/

namespace Sys2Proof.Machine

/-- `out[b][l] = Gen(M[l], idx[b][l], S)`; no register is read or written (R101). -/
def bsgBody (n : Inst) (x : Inputs) : CycleResult :=
  .commit n.regs (.bits (tab2 n.batch n.e (fun b l => gen n.period n.seq (at1 n.m l) (x.index b l))))

/-- BSG.U (R101). -/
def execBsgU (s : State) : Host.Outcome State Fault Refusal := cycle .bsgU bsgBody s

/-- BSG.B (R102): the comparator of BSG.U; only the meaning of the level differs. -/
def execBsgB (s : State) : Host.Outcome State Fault Refusal := cycle .bsgB bsgBody s

/-- `Level(v, mode)`, the caller's conversion of a value to a level, outside the hardware (R103; log 26).
A value outside the coding range has no level (U1). -/
def levelOf (bitwidth : Nat) (bipolar : Bool) (v : Rat) : Option Int :=
  if bipolar then
    (if -1 ≤ v ∧ v ≤ 1 then some (rnd .round ((v + 1) / 2 * (period bitwidth : Rat))) else none)
  else (if 0 ≤ v ∧ v ≤ 1 then some (rnd .round (v * (period bitwidth : Rat))) else none)

end Sys2Proof.Machine
end

