-- ==== Sys2Proof/Decode.lean ====
section
/-! DEFINITION. The decoder of `spec/30_encoding.md` (R81 to R85) and, after it, the encoder. -/

namespace Sys2Proof

/-- The decoder's rejection by name: a descriptor no row matches (R83, R84 (a)). -/
inductive DecodeReject where
  | reservedDescriptor
deriving DecidableEq, Repr

/-- Bit `k` of a descriptor as a Boolean field (R81). -/
def flagOf (d : Desc) (k : Nat) : Bool := d.getLsbD k

/-- SCALED is bit 7 (R81). -/
def scaledOf (d : Desc) : Bool := flagOf d 7

/-- BIAS is bit 5 (R81). -/
def biasOf (d : Desc) : Bool := flagOf d 5

/-- RND is bits 4:3 (R81). -/
def rndOf (d : Desc) : RndField :=
  match (d.extractLsb' 3 2).toNat with
  | 0 => .mode .round
  | 1 => .mode .floor
  | 2 => .mode .ceil
  | _ => .reserved

/-- KEEP is bit 2 (R81). -/
def keepOf (d : Desc) : KeepField := if flagOf d 2 then .output else .input

/-- MORE is bits 1:0 (R81). -/
def moreOf (d : Desc) : MoreField :=
  match (d.extractLsb' 0 2).toNat with
  | 0 => .input
  | 1 => .weight
  | 2 => .code2
  | _ => .code3

/-- One row of the operation map (R82). -/
structure Row where
  mask : Desc
  pat : Desc
  build : Desc → Instr

/-- The operation map (R82), in the spec's order. -/
def descRows : List Row :=
  [ ⟨0xFF00, 0x0000, fun _ => .bsgU⟩,
    ⟨0xFF00, 0x0100, fun _ => .bsgB⟩,
    ⟨0xFF00, 0x1000, fun _ => .mulAND⟩,
    ⟨0xFF00, 0x1100, fun _ => .mulXNOR⟩,
    ⟨0xFF00, 0x1200, fun _ => .mulSU⟩,
    ⟨0xFF00, 0x1300, fun _ => .mulSB⟩,
    ⟨0xFE00, 0x1400, fun _ => .mulIS⟩,
    ⟨0xFE80, 0x2080, fun _ => .addSC⟩,
    ⟨0xFF80, 0x2000, fun _ => .addNSU⟩,
    ⟨0xFF80, 0x2100, fun _ => .addNSB⟩,
    ⟨0xFE80, 0x2280, fun _ => .addGMUX⟩,
    ⟨0xFF80, 0x2200, fun _ => .addGOR⟩,
    ⟨0xFF80, 0x2300, fun _ => .addGNSB⟩,
    ⟨0xFF40, 0x3000, fun d => .linURC (scaledOf d) (biasOf d)⟩,
    ⟨0xFF40, 0x3040, fun d => .linUTC (scaledOf d) (biasOf d)⟩,
    ⟨0xFF40, 0x3100, fun d => .linBRC (scaledOf d) (biasOf d)⟩,
    ⟨0xFF40, 0x3140, fun d => .linBTC (scaledOf d) (biasOf d)⟩,
    ⟨0xFE00, 0x3200, fun d => .linHUB (biasOf d) (rndOf d)⟩,
    ⟨0xFE00, 0x3400, fun d => .linFXP (biasOf d) (rndOf d) (keepOf d) (moreOf d)⟩,
    ⟨0xFE00, 0x4000, fun _ => .reluRC⟩,
    ⟨0xFE00, 0x4200, fun _ => .reluSR⟩,
    ⟨0xFE00, 0x4400, fun _ => .reluTC⟩ ]

/-- A descriptor selects a row when `d & mask == match` (R82). -/
def Row.selects (r : Row) (d : Desc) : Bool := (d &&& r.mask) == r.pat

/-- `Decode(d)` of R83: the operation of the row that matches, or the rejection of a reserved descriptor. -/
def decodeDesc (d : Desc) : Except DecodeReject Instr :=
  match descRows.find? (fun r => r.selects d) with
  | some r => .ok (r.build d)
  | none => .error .reservedDescriptor

/-- The command a code stands for (R85). -/
def decodeCmd (c : CmdCode) : Instr :=
  match c.toNat with
  | 0 => .construct
  | 1 => .step
  | 2 => .replace
  | _ => .cmdReserved

/-- The decoder over both encoded objects (R80). -/
def decode : CodeWord → Except DecodeReject Instr
  | .desc16 d => decodeDesc d
  | .cmd2 c => .ok (decodeCmd c)

/-- The instruction read from a table word (bit 0 least significant). A word of at most 8 bits is a command
code in its two low bits, a longer one a descriptor in its 16 low bits (log 15). -/
def decodeTableWord (nbits w : Nat) : Option Instr :=
  match decode (if nbits ≤ 8 then .cmd2 (BitVec.ofNat 2 w) else .desc16 (BitVec.ofNat 16 w)) with
  | .ok i => some i
  | .error _ => none

/-- A Boolean field placed at bit `k` (R81). -/
def flagBit (k : Nat) (b : Bool) : Desc := if b then 1 <<< k else 0

/-- RND placed at bits 4:3 (R81). -/
def rndBits : RndField → Desc
  | .mode .round => 0x0000
  | .mode .floor => 0x0008
  | .mode .ceil => 0x0010
  | .reserved => 0x0018

/-- KEEP placed at bit 2 (R81). -/
def keepBits : KeepField → Desc
  | .input => 0x0000
  | .output => 0x0004

/-- MORE placed at bits 1:0 (R81). -/
def moreBits : MoreField → Desc
  | .input => 0x0000
  | .weight => 0x0001
  | .code2 => 0x0002
  | .code3 => 0x0003

/-- The word of an instruction, ignored fields 0 (R81, R82, R85, R88). -/
def encode : Instr → CodeWord
  | .bsgU => .desc16 0x0000
  | .bsgB => .desc16 0x0100
  | .mulAND => .desc16 0x1000
  | .mulXNOR => .desc16 0x1100
  | .mulSU => .desc16 0x1200
  | .mulSB => .desc16 0x1300
  | .mulIS => .desc16 0x1400
  | .addSC => .desc16 0x2080
  | .addNSU => .desc16 0x2000
  | .addNSB => .desc16 0x2100
  | .addGMUX => .desc16 0x2280
  | .addGOR => .desc16 0x2200
  | .addGNSB => .desc16 0x2300
  | .linURC s b => .desc16 (0x3000 ||| flagBit 7 s ||| flagBit 5 b)
  | .linUTC s b => .desc16 (0x3040 ||| flagBit 7 s ||| flagBit 5 b)
  | .linBRC s b => .desc16 (0x3100 ||| flagBit 7 s ||| flagBit 5 b)
  | .linBTC s b => .desc16 (0x3140 ||| flagBit 7 s ||| flagBit 5 b)
  | .linHUB b r => .desc16 (0x3200 ||| flagBit 5 b ||| rndBits r)
  | .linFXP b r k m => .desc16 (0x3400 ||| flagBit 5 b ||| rndBits r ||| keepBits k ||| moreBits m)
  | .reluRC => .desc16 0x4000
  | .reluSR => .desc16 0x4200
  | .reluTC => .desc16 0x4400
  | .construct => .cmd2 0
  | .step => .cmd2 1
  | .replace => .cmd2 2
  | .cmdReserved => .cmd2 3

/-- The descriptor bits an operation's row fixes or reads (R82): its mask and the fields it reads. The other
bits are ignored (R84 (d)). A command code has no descriptor bits. -/
def usedBits : Instr → Desc
  | .bsgU => 0xFF00
  | .bsgB => 0xFF00
  | .mulAND => 0xFF00
  | .mulXNOR => 0xFF00
  | .mulSU => 0xFF00
  | .mulSB => 0xFF00
  | .mulIS => 0xFE00
  | .addSC => 0xFE80
  | .addNSU => 0xFF80
  | .addNSB => 0xFF80
  | .addGMUX => 0xFE80
  | .addGOR => 0xFF80
  | .addGNSB => 0xFF80
  | .linURC _ _ => 0xFFE0
  | .linUTC _ _ => 0xFFE0
  | .linBRC _ _ => 0xFFE0
  | .linBTC _ _ => 0xFFE0
  | .linHUB _ _ => 0xFE38
  | .linFXP _ _ _ _ => 0xFE3F
  | .reluRC => 0xFE00
  | .reluSR => 0xFE00
  | .reluTC => 0xFE00
  | .construct => 0
  | .step => 0
  | .replace => 0
  | .cmdReserved => 0

end Sys2Proof
end

