-- ==== Sys2Proof/Machine/LinFast.lean ====
section
/-! DEFINITION. The fast paths of the linear layer (`spec/44_linear_fastpaths.md`): LIN.HUB, LIN.FXP, and
the gradient contract that the spec records beside them. -/

namespace Sys2Proof.Machine

/-! ### HUB -/

/-- `LUT[a][w] = #(k in [0, a) : Sw[k] < w)` (R151). -/
def lutEntry (s : List Int) (a w : Nat) : Nat :=
  ((List.range a).filter (fun k => decide (at1 s k < (w : Int)))).length

/-- The table `LUT[a][w]`, `a, w ∈ [0, P]` (R151). -/
def hubTable (p : Nat) (s : List Int) : List (List Nat) := tab2 (p + 1) (p + 1) (lutEntry s)

/-- `σ = -1` for a negative number, else `+1` (R152). -/
def signOf (q : Rat) : Int := if q < 0 then -1 else 1

/-- `Rnd_m(|v| / 2^shift * P)`, a level in `[0, P]` (R152). -/
def hubLevel (m : Rounding) (p : Nat) (shift : Int) (v : Rat) : Nat :=
  (rnd m (magnitude v / pow2 shift * (p : Rat))).toNat

/-- The whole input tensor, for the dynamic shift (R152). -/
def inputValues (n : Inst) (x : Inputs) : List Rat := (tab2 n.batch n.n (fun b i => x.real b i)).flatten

/-- `C[b][o]`, the signed count (R153). -/
def hubCount (m : Rounding) (n : Inst) (x : Inputs) (b o : Nat) : Int :=
  let sx := shiftOf (inputValues n x)
  let sw := shiftOf n.w.flatten
  sumInt n.n (fun i =>
    signOf (x.real b i) * signOf (at2 n.w o i) *
      ((at2 n.lut (hubLevel m n.period sx (x.real b i)) (hubLevel m n.period sw (at2 n.w o i)) : Nat) : Int))

/-- The bias term, added unquantised when there is a bias lane (R153, R157). -/
def biasTerm (bias : Bool) (n : Inst) (o : Nat) : Rat := if bias then at1 n.c o else 0

/-- `y[b][o] = C[b][o] * 2^(sx + sw) / P + c[o]`; no register is written (R153, R154). -/
def hubBody (m : Rounding) (bias : Bool) (n : Inst) (x : Inputs) : CycleResult :=
  .commit n.regs (.reals (tab2 n.batch n.o (fun b o =>
    (hubCount m n x b o : Rat) * pow2 (shiftOf (inputValues n x) + shiftOf n.w.flatten) / (n.period : Rat)
      + biasTerm bias n o)))

/-- LIN.HUB (R154). With `RND = 3` requesting it raises ConfigurationError(invalid_rounding) and no instance
exists (R84 (c), R191). -/
def execLinHUB (bias : Bool) (rf : RndField) (s : State) : Host.Outcome State Fault Refusal :=
  match rf with
  | .reserved => raiseConfiguration .invalidRounding s
  | .mode m => cycle (.linHUB bias rf) (hubBody m bias) s

/-! ### FXP -/

/-- The bit budgets `(bi, bw)`; none where `more_res` is invalid and examined (R156). -/
def fxpBudgets (bitwidth : Nat) (keep : KeepField) (more : MoreField) : Option (Nat × Nat) :=
  match keep with
  | .input => some (bitwidth, bitwidth)
  | .output =>
    if bitwidth % 2 = 0 then some (bitwidth / 2, bitwidth / 2)
    else
      match more with
      | .input => some ((bitwidth + 1) / 2, (bitwidth - 1) / 2)
      | .weight => some ((bitwidth - 1) / 2, (bitwidth + 1) / 2)
      | .code2 => none
      | .code3 => none

/-- `Rnd_m(v * 2^k)`, a signed integer (R157). -/
def fxpQuantise (m : Rounding) (k : Nat) (v : Rat) : Int := rnd m (v * pow2 k)

/-- `S[b][o] = Σ_i X[b][i] * Wq[o][i]` (R157). -/
def fxpSum (m : Rounding) (n : Inst) (x : Inputs) (b o : Nat) : Int :=
  sumInt n.n (fun i => fxpQuantise m n.bi (x.real b i) * fxpQuantise m n.bw (at2 n.w o i))

/-- `y[b][o] = S[b][o] / 2^(bi + bw) + c[o]`; no register is written (R157, R158). -/
def fxpBody (m : Rounding) (bias : Bool) (n : Inst) (x : Inputs) : CycleResult :=
  .commit n.regs (.reals (tab2 n.batch n.o (fun b o =>
    (fxpSum m n x b o : Rat) / pow2 (n.bi + n.bw : Nat) + biasTerm bias n o)))

/-- LIN.FXP (R158). The budgets were fixed at CONSTRUCT from KEEP and MORE. With `RND = 3` requesting it
raises ConfigurationError(invalid_rounding) and no instance exists (R84 (c), R191). -/
def execLinFXP (bias : Bool) (rf : RndField) (keep : KeepField) (more : MoreField) (s : State) :
    Host.Outcome State Fault Refusal :=
  match rf with
  | .reserved => raiseConfiguration .invalidRounding s
  | .mode m => cycle (.linFXP bias rf keep more) (fxpBody m bias) s

/-! ### The gradient contract (software, not hardware: R160; log 26) -/

/-- `grad_x[b][i] = Σ_o g[b][o] * w[o][i]` (R160). -/
def gradInput (batch n o : Nat) (g w : List (List Rat)) : List (List Rat) :=
  tab2 batch n (fun b i => sumRat o (fun k => at2 g b k * at2 w k i))

/-- `grad_w[o][i] = Σ_b g[b][o] * x[b][i]` (R160). -/
def gradWeight (batch n o : Nat) (g x : List (List Rat)) : List (List Rat) :=
  tab2 o n (fun k i => sumRat batch (fun b => at2 g b k * at2 x b i))

/-- `grad_c[o] = Σ_b g[b][o]` (R160). -/
def gradBias (batch o : Nat) (g : List (List Rat)) : List Rat :=
  tab1 o (fun k => sumRat batch (fun b => at2 g b k))

end Sys2Proof.Machine
end

