-- ==== Sys2Proof/Machine/Relu.lean ====
section
/-! DEFINITION. The bit-serial ReLU (`spec/45_relu.md`). -/

namespace Sys2Proof.Machine

/-- `HALF = 2^(DEPTH−1)` (R8). -/
def halfOf (depth : Nat) : Nat := 2 ^ (depth - 1)

/-- `ACCMAX = 2^DEPTH − 1` (R8). -/
def accMaxOf (depth : Nat) : Nat := 2 ^ depth - 1

/-- `T = 2^(B−1)` (R8, R174). -/
def thresholdOf (bitwidth : Nat) : Nat := 2 ^ (bitwidth - 1)

/-- `clamp(v, lo, hi)` (R12). -/
def clamp (v lo hi : Int) : Int := if v < lo then lo else if v > hi then hi else v

/-! ### One lane -/

/-- RELU.RC: `x | (racc < HALF)` (R166). -/
def rcOut (depth racc : Nat) (x : Bool) : Bool := x || decide (racc < halfOf depth)

/-- RELU.RC: `clamp(racc + 2*out - 1, 0, ACCMAX)`, following the output bit (R166). -/
def rcNext (depth racc : Nat) (x : Bool) : Nat :=
  (clamp ((racc : Int) + 2 * (bitNat (rcOut depth racc x) : Int) - 1) 0 (accMaxOf depth : Int)).toNat

/-- RELU.SR: 1 in the first cycle, then `x | (2*pop < DEPTH)` (R170). -/
def srOut (first : Bool) (depth pop : Nat) (x : Bool) : Bool :=
  if first then true else x || decide (2 * pop < depth)

/-- RELU.SR: push the output, evicting the oldest bit (R28, R170). -/
def srPush (ring : List Bool) (y : Bool) : List Bool := ring.tail ++ [y]

/-- RELU.SR: `pop + out - ev` with `ev` the evicted bit (R170; log 22). -/
def srPop (ring : List Bool) (pop : Nat) (y : Bool) : Nat := pop + bitNat y - bitNat (at1 ring 0)

/-- RELU.TC: with the counts that include this cycle, `c' > T` is the second half, where the output is
`x & (a' > T)`; in the first half it is `c' >= a'` (R174). -/
def tcOut (t cyc tacc : Nat) (x : Bool) : Bool :=
  if cyc + 1 > t then x && decide (tacc + bitNat x > t) else decide (cyc + 1 ≥ tacc + bitNat x)

/-! ### The operations -/

/-- The cycle of RELU.RC (R166). -/
def reluRcBody (n : Inst) (x : Inputs) : CycleResult :=
  .commit
    { n.regs with racc := tab2 n.batch n.e (fun b l => rcNext n.depth (at2 n.regs.racc b l) (x.bit b l)) }
    (.bits (tab2 n.batch n.e (fun b l => rcOut n.depth (at2 n.regs.racc b l) (x.bit b l))))

/-- The output bit of RELU.SR at a lane (R170). -/
def srLane (n : Inst) (x : Inputs) (b l : Nat) : Bool :=
  srOut n.regs.first n.depth (at2 n.regs.pop b l) (x.bit b l)

/-- The cycle of RELU.SR (R170). -/
def reluSrBody (n : Inst) (x : Inputs) : CycleResult :=
  .commit
    { n.regs with
      ring := tab2 n.batch n.e (fun b l => srPush (at2 n.regs.ring b l) (srLane n x b l))
      pop := tab2 n.batch n.e (fun b l => srPop (at2 n.regs.ring b l) (at2 n.regs.pop b l) (srLane n x b l))
      first := firstAfterStep }
    (.bits (tab2 n.batch n.e (srLane n x)))

/-- The cycle of RELU.TC (R174). -/
def reluTcBody (n : Inst) (x : Inputs) : CycleResult :=
  .commit
    { n.regs with
      cyc := n.regs.cyc + 1
      tacc := tab2 n.batch n.e (fun b l => at2 n.regs.tacc b l + bitNat (x.bit b l)) }
    (.bits (tab2 n.batch n.e (fun b l =>
      tcOut (thresholdOf n.bitwidth) n.regs.cyc (at2 n.regs.tacc b l) (x.bit b l))))

/-- RELU.RC (R166). -/
def execReluRC (s : State) : Host.Outcome State Fault Refusal := cycle .reluRC reluRcBody s

/-- RELU.SR (R170). -/
def execReluSR (s : State) : Host.Outcome State Fault Refusal := cycle .reluSR reluSrBody s

/-- RELU.TC (R174). -/
def execReluTC (s : State) : Host.Outcome State Fault Refusal := cycle .reluTC reluTcBody s

end Sys2Proof.Machine
end

