-- ==== Sys2Proof/WellFormed.lean ====
section
/-! DEFINITION. Which instructions have only legal field values. -/

namespace Sys2Proof

/-- A rounding field holds one of the three modes (R84 (c): `RND = 3` in LIN.HUB or LIN.FXP is illegal). -/
def RndField.legal : RndField → Bool
  | .mode _ => true
  | .reserved => false

/-- Every field value of the instruction is legal whatever the parameter record holds (R84 (c)).
`MORE ∈ {2, 3}` is not judged here: it is legal unless KEEP = output and B is odd, and B is no part of the
instruction (R156). The two rows that always fail (R84 (b)) are rows of the table and well-formed as such. -/
def Instr.wellFormed : Instr → Bool
  | .bsgU => true
  | .bsgB => true
  | .mulAND => true
  | .mulXNOR => true
  | .mulSU => true
  | .mulSB => true
  | .mulIS => true
  | .addSC => true
  | .addNSU => true
  | .addNSB => true
  | .addGMUX => true
  | .addGOR => true
  | .addGNSB => true
  | .linURC _ _ => true
  | .linUTC _ _ => true
  | .linBRC _ _ => true
  | .linBTC _ _ => true
  | .linHUB _ rnd => rnd.legal
  | .linFXP _ rnd _ _ => rnd.legal
  | .reluRC => true
  | .reluSR => true
  | .reluTC => true
  | .construct => true
  | .step => true
  | .replace => true
  | .cmdReserved => true

end Sys2Proof
end

