-- ==== Sys2Proof/Machine/Construct.lean ====
section
/-! DEFINITION. What CONSTRUCT checks and creates (`spec/46_commands.md` R181, `spec/60_exceptions.md` R191,
R192, R198): which parameters and tables an operation reads, its registers and their reset values, the
errors in their order, and the refusals. -/

namespace Sys2Proof.Machine

/-- The parameters and tables an operation reads (R40 to R46, R62 to R64, R86); a parameter it does not read
is ignored. -/
structure Reads where
  bitwidth : Bool
  depth : Bool
  /-- `N` and `O` (ADD, LIN). -/
  axis : Bool
  /-- `E` (BSG, MUL, RELU). -/
  lanes : Bool
  seq : Bool
  seq0 : Bool
  seqb : Bool
  mux : Bool
  m : Bool
  mw : Bool
  mb : Bool
  w : Bool
  c : Bool
deriving DecidableEq, Repr

/-- Reads nothing. -/
def Reads.none : Reads :=
  { bitwidth := false, depth := false, axis := false, lanes := false, seq := false, seq0 := false, seqb := false,
    mux := false, m := false, mw := false, mb := false, w := false, c := false }

/-- What each operation reads. MUL.IS, ADD.GNSB and the command codes have no instance. -/
def readsOf : Instr → Reads
  | .bsgU => { Reads.none with bitwidth := true, lanes := true, seq := true, m := true }
  | .bsgB => { Reads.none with bitwidth := true, lanes := true, seq := true, m := true }
  | .mulAND => { Reads.none with lanes := true }
  | .mulXNOR => { Reads.none with lanes := true }
  | .mulSU => { Reads.none with bitwidth := true, lanes := true, seq := true, m := true }
  | .mulSB => { Reads.none with bitwidth := true, lanes := true, seq := true, seq0 := true, m := true }
  | .mulIS => Reads.none
  | .addSC => { Reads.none with axis := true }
  | .addNSU => { Reads.none with axis := true }
  | .addNSB => { Reads.none with axis := true }
  | .addGMUX => { Reads.none with axis := true, mux := true }
  | .addGOR => { Reads.none with axis := true }
  | .addGNSB => Reads.none
  | .linURC _ bias => { Reads.none with bitwidth := true, axis := true, seq := true, mw := true, seqb := bias, mb := bias }
  | .linUTC _ bias => { Reads.none with bitwidth := true, axis := true, seq := true, mw := true, seqb := bias, mb := bias }
  | .linBRC _ bias => { Reads.none with bitwidth := true, axis := true, seq := true, seq0 := true, mw := true, seqb := bias, mb := bias }
  | .linBTC _ bias => { Reads.none with bitwidth := true, axis := true, seq := true, seq0 := true, mw := true, seqb := bias, mb := bias }
  | .linHUB bias _ => { Reads.none with bitwidth := true, axis := true, seq := true, w := true, c := bias }
  | .linFXP bias _ _ _ => { Reads.none with bitwidth := true, axis := true, w := true, c := bias }
  | .reluRC => { Reads.none with depth := true, lanes := true }
  | .reluSR => { Reads.none with depth := true, lanes := true }
  | .reluTC => { Reads.none with bitwidth := true, lanes := true }
  | .construct => Reads.none
  | .step => Reads.none
  | .replace => Reads.none
  | .cmdReserved => Reads.none

/-- The registers an operation's instances have (R22). -/
structure Owns where
  c1 : Bool
  c0 : Bool
  acc : Bool
  /-- `acc2` and `oacc`. -/
  nonscaled : Bool
  mc : Bool
  cw : Bool
  cwi : Bool
  cb : Bool
  racc : Bool
  /-- `ring`, `pop` and `first`. -/
  ring : Bool
  /-- `tacc` and `cyc`. -/
  tacc : Bool
deriving DecidableEq, Repr

/-- Has no register. -/
def Owns.none : Owns :=
  { c1 := false, c0 := false, acc := false, nonscaled := false, mc := false, cw := false, cwi := false,
    cb := false, racc := false, ring := false, tacc := false }

/-- The registers of each operation (R22, column "Unit variants that have it"). -/
def ownsOf : Instr → Owns
  | .bsgU => Owns.none
  | .bsgB => Owns.none
  | .mulAND => Owns.none
  | .mulXNOR => Owns.none
  | .mulSU => { Owns.none with c1 := true }
  | .mulSB => { Owns.none with c1 := true, c0 := true }
  | .mulIS => Owns.none
  | .addSC => { Owns.none with acc := true }
  | .addNSU => { Owns.none with nonscaled := true }
  | .addNSB => { Owns.none with nonscaled := true }
  | .addGMUX => { Owns.none with mc := true }
  | .addGOR => Owns.none
  | .addGNSB => Owns.none
  | .linURC scaled bias => { Owns.none with cw := true, cb := bias, acc := scaled, nonscaled := !scaled }
  | .linUTC scaled bias => { Owns.none with cw := true, cb := bias, acc := scaled, nonscaled := !scaled }
  | .linBRC scaled bias => { Owns.none with cw := true, cwi := true, cb := bias, acc := scaled, nonscaled := !scaled }
  | .linBTC scaled bias => { Owns.none with cw := true, cwi := true, cb := bias, acc := scaled, nonscaled := !scaled }
  | .linHUB _ _ => Owns.none
  | .linFXP _ _ _ _ => Owns.none
  | .reluRC => { Owns.none with racc := true }
  | .reluSR => { Owns.none with ring := true }
  | .reluTC => { Owns.none with tacc := true }
  | .construct => Owns.none
  | .step => Owns.none
  | .replace => Owns.none
  | .cmdReserved => Owns.none

/-- A value when it is read, else the default. -/
def whenRead {α : Type} [Inhabited α] (read : Bool) (v : α) : α := if read then v else default

/-- The reset value of every register the operation has (R49, R216): 0 everywhere, but `racc = HALF`,
`first = 1` and a ring of DEPTH zeros. -/
def resetRegs (i : Instr) (batch e n o depth : Nat) : Regs :=
  let w := ownsOf i
  { c1 := whenRead w.c1 (tab2 batch e (fun _ _ => 0))
    c0 := whenRead w.c0 (tab2 batch e (fun _ _ => 0))
    acc := whenRead w.acc (tab2 batch o (fun _ _ => 0))
    acc2 := whenRead w.nonscaled (tab2 batch o (fun _ _ => 0))
    oacc := whenRead w.nonscaled (tab2 batch o (fun _ _ => 0))
    mc := 0
    cw := whenRead w.cw (tab3 batch o n (fun _ _ _ => 0))
    cwi := whenRead w.cwi (tab3 batch o n (fun _ _ _ => 0))
    cb := whenRead w.cb (tab1 o (fun _ => 0))
    racc := whenRead w.racc (tab2 batch e (fun _ _ => halfOf depth))
    ring := whenRead w.ring (tab2 batch e (fun _ _ => List.replicate depth false))
    pop := whenRead w.ring (tab2 batch e (fun _ _ => 0))
    first := whenRead w.ring firstAtReset
    cyc := 0
    tacc := whenRead w.tacc (tab2 batch e (fun _ _ => 0)) }

/-- The instance CONSTRUCT creates from a parameter record that passed every check (R181): registers at
reset, HUB table and FXP budgets fixed, `dead = 0`, `err = 0`. The second and the bias generator use the
first generator's table unless given their own (R113, R135). -/
def makeInst (i : Instr) (p : Params) : Inst :=
  let r := readsOf i
  let b := whenRead r.bitwidth p.bitwidth.toNat
  let depth := whenRead r.depth p.depth.toNat
  let n := whenRead r.axis p.n.toNat
  let o := whenRead r.axis p.o.toNat
  let e := whenRead r.lanes p.e.toNat
  let seq := p.seq.getD []
  let budgets : Nat × Nat :=
    match i with
    | .linFXP _ _ keep more => (fxpBudgets b keep more).getD (0, 0)
    | _ => (0, 0)
  let lut : List (List Nat) :=
    match i with
    | .linHUB _ _ => hubTable (period b) seq
    | _ => []
  { op := i, bitwidth := b, depth := depth, n := n, o := o, e := e, batch := p.batch.toNat
    seq := whenRead r.seq seq
    seq0 := whenRead r.seq0 (p.seq0.getD seq)
    seqb := whenRead r.seqb (p.seqb.getD seq)
    muxSeq := whenRead r.mux (p.muxSeq.getD [])
    m := whenRead r.m (p.m.getD [])
    mw := whenRead r.mw (p.mw.getD [])
    mb := whenRead r.mb (p.mb.getD [])
    w := whenRead r.w (p.w.getD [])
    c := whenRead r.c (p.c.getD [])
    lut := lut
    bi := budgets.1
    bw := budgets.2
    regs := resetRegs i p.batch.toNat e n o depth
    dead := false
    err := Config.errNone }

/-! ### Errors -/

/-- MUL.IS and ADD.GNSB are illegal by the source (R84 (b)). -/
def illegalRow : Instr → Option ConfigCause
  | .mulIS => some .inStreamMultiplication
  | .addGNSB => some .gainesNonscaledBipolar
  | _ => none

/-- `RND = 3` in LIN.HUB or LIN.FXP (R84 (c)). -/
def badRounding : Instr → Bool
  | .linHUB _ rf => !rf.legal
  | .linFXP _ rf _ _ => !rf.legal
  | _ => false

/-- A parameter the operation reads is outside its stated type (R191 (7)). -/
def badParameter (i : Instr) (p : Params) : Bool :=
  let r := readsOf i
  (r.bitwidth && decide (p.bitwidth ≤ 0)) || (r.depth && decide (p.depth ≤ 0)) ||
    (r.axis && (decide (p.n < 1) || decide (p.o < 1))) || (r.lanes && decide (p.e < 1)) || decide (p.batch < 1)

/-- RELU.SR with `DEPTH > 127` (R170, R191 (3)). -/
def badDepth (i : Instr) (p : Params) : Bool :=
  match i with
  | .reluSR => decide (p.depth > Config.reluSrDepthMax)
  | _ => false

/-- LIN.FXP with KEEP = output, B odd and MORE neither input nor weight (R156, R191 (4)). -/
def badMoreRes (i : Instr) (p : Params) : Bool :=
  match i with
  | .linFXP _ _ keep more => (fxpBudgets p.bitwidth.toNat keep more).isNone
  | _ => false

/-- The ConfigurationError of a decoded descriptor, if any, in the order of R198. -/
def configError (i : Instr) (p : Params) : Option ConfigCause :=
  match illegalRow i with
  | some cause => some cause
  | none =>
    if badRounding i then some .invalidRounding
    else if badParameter i p then some .parameterRange
    else if badDepth i p then some .reluSrDepth
    else if badMoreRes i p then some .invalidMoreRes
    else none

/-- The number of columns of a supplied matrix when `n` are expected: that of the first row that differs, else
`n`; 0 for a matrix without rows (log 12). -/
def foundColumns {α : Type} (n : Nat) (t : List (List α)) : Nat :=
  match t.find? (fun r => r.length != n) with
  | some r => r.length
  | none => if t.isEmpty then 0 else n

/-- The shape error of a weight table that should be `O × N` (R192). -/
def weightShapeError {α : Type} (o n : Nat) (t : Option (List (List α))) : Option CoreError :=
  match t with
  | none => none
  | some t =>
    if hasShape2 o n t then none else some (.shapeMismatch .weight [o, n] [t.length, foundColumns n t])

/-- The shape error of a bias table that should have length `O` (R192). -/
def biasShapeError {α : Type} (o : Nat) (t : Option (List α)) : Option CoreError :=
  match t with
  | none => none
  | some t => if hasShape1 o t then none else some (.shapeMismatch .bias [o] [t.length])

/-- The first error of several checks. -/
def firstError : List (Option CoreError) → Option CoreError
  | [] => none
  | some e :: _ => some e
  | none :: rest => firstError rest

/-- The ShapeMismatchError of a construction, if any: weight before bias (R192, R198). A table the row does
not read is ignored. -/
def shapeError (i : Instr) (p : Params) : Option CoreError :=
  let r := readsOf i
  let o := p.o.toNat
  let n := p.n.toNat
  firstError
    [ if r.mw then weightShapeError o n p.mw else none,
      if r.w then weightShapeError o n p.w else none,
      if r.mb then biasShapeError o p.mb else none,
      if r.c then biasShapeError o p.c else none ]

/-! ### Refusals -/

/-- A table the operation needs is not supplied (U13). The second and the bias sequence table default to the
first (R113, R135); the MUX table needs `L ≥ 1` entries (R64; log 21). -/
def missingTable (i : Instr) (p : Params) : Bool :=
  let r := readsOf i
  (r.seq && p.seq.isNone) || (r.mux && (p.muxSeq.getD []).isEmpty) || (r.m && p.m.isNone) ||
    (r.mw && p.mw.isNone) || (r.mb && p.mb.isNone) || (r.w && p.w.isNone) || (r.c && p.c.isNone)

/-- A sequence table breaks the contract (U2). -/
def badSequence (i : Instr) (p : Params) : Bool :=
  let n := makeInst i p
  let r := readsOf i
  (r.seq && !legalSequence n.period n.seq) || (r.seq0 && !legalSequence n.period n.seq0) ||
    (r.seqb && !legalSequence n.period n.seqb)

/-- The level table of BSG or MUL does not have `E` entries (log 11). -/
def badLevelLength (i : Instr) (p : Params) : Bool :=
  let n := makeInst i p
  (readsOf i).m && !hasShape1 n.e n.m

/-- A level is outside `[0, P]` (U1). -/
def badLevel (i : Instr) (p : Params) : Bool :=
  let n := makeInst i p
  !(n.m.all (legalLevel n.period) && n.mw.all (fun u => u.all (legalLevel n.period)) &&
      n.mb.all (legalLevel n.period))

/-- The refusal of a construction, if any (R181 last check; the order among refusals is log 10). -/
def constructRefusal (i : Instr) (p : Params) : Option Decline :=
  if missingTable i p then some .missingTable
  else if badSequence i p then some .sequenceTable
  else if badLevelLength i p then some .levelTableLength
  else if badLevel i p then some .levelRange
  else none

/-- What a CONSTRUCT comes to. -/
inductive BuildResult where
  | made (n : Inst)
  | failed (e : CoreError)
  | refused (why : Decline)
deriving DecidableEq, Repr

/-- CONSTRUCT of a decoded descriptor (R181): errors first, ConfigurationError before ShapeMismatchError,
then refusals, then the instance. -/
def build (i : Instr) (p : Params) : BuildResult :=
  match configError i p with
  | some cause => .failed (.configuration cause)
  | none =>
    match shapeError i p with
    | some e => .failed e
    | none =>
      match constructRefusal i p with
      | some why => .refused why
      | none => .made (makeInst i p)

/-- CONSTRUCT of a descriptor word (R83, R181): a reserved one raises ConfigurationError(reserved). -/
def buildDesc (d : Desc) (p : Params) : BuildResult :=
  match decodeDesc d with
  | .error _ => .failed (.configuration .reserved)
  | .ok i => build i p

end Sys2Proof.Machine
end

