-- ==== Sys2Proof/Machine/Lin.lean ====
section
/-! DEFINITION. The exact bit-serial linear layer (`spec/43_linear_bitserial.md`). -/

namespace Sys2Proof.Machine

/-- `wbit[b][o][i]`, the regenerated weight bit (R136). -/
def weightBit (n : Inst) (b o i : Nat) : Bool := gen n.period n.seq (at2 n.mw o i) (at3 n.regs.cw b o i)

/-- `winv[b][o][i]`, the inverted-weight bit of the bipolar variants (R136). -/
def inverseBit (n : Inst) (b o i : Nat) : Bool := !gen n.period n.seq0 (at2 n.mw o i) (at3 n.regs.cwi b o i)

/-- `bbit[o]`, the bias bit (R136). -/
def biasBit (n : Inst) (o : Nat) : Bool := gen n.period n.seqb (at1 n.mb o) (at1 n.regs.cb o)

/-- `pos[b][o]` (R137). -/
def posCount (n : Inst) (x : Inputs) (b o : Nat) : Nat :=
  sumNat n.n (fun i => bitNat (x.bit b i && weightBit n b o i))

/-- `neg[b][o]`, the second pass of the bipolar variants (R137). -/
def negCount (n : Inst) (x : Inputs) (b o : Nat) : Nat :=
  sumNat n.n (fun i => bitNat (!x.bit b i && inverseBit n b o i))

/-- `s[b][o]`, the per-cycle count: both passes and, with a bias lane, the bias bit uninverted (R137). -/
def linCount (bipolar bias : Bool) (n : Inst) (x : Inputs) (b o : Nat) : Nat :=
  posCount n x b o + (if bipolar then negCount n x b o else 0) + (if bias then bitNat (biasBit n o) else 0)

/-- The counters after the cycle (R139). Under the temporal policy (`temporal = true`) both weight counters
advance in every cycle; under the rate policy by the input bit and by its complement. The bias counter
advances in every cycle. -/
def linCounters (bipolar temporal bias : Bool) (n : Inst) (x : Inputs) : Regs :=
  { n.regs with
    cw := tab3 n.batch n.o n.n (fun b o i => advance n.period (at3 n.regs.cw b o i) (temporal || x.bit b i))
    cwi := if bipolar then
        tab3 n.batch n.o n.n (fun b o i => advance n.period (at3 n.regs.cwi b o i) (temporal || !x.bit b i))
      else n.regs.cwi
    cb := if bias then tab1 n.o (fun o => advance n.period (at1 n.regs.cb o) true) else n.regs.cb }

/-- The cycle of an exact variant: count (R137), output stage with `bound = N + BIAS` (R138), counter
advance (R139). -/
def linBody (bipolar temporal scaled bias : Bool) (n : Inst) (x : Inputs) : CycleResult :=
  if scaled then
    scaledStage n (boundOf n.n bias) (linCount bipolar bias n x) (linCounters bipolar temporal bias n x)
  else
    nonscaledStage n (offsetTwice bipolar (boundOf n.n bias)) (linCount bipolar bias n x)
      (linCounters bipolar temporal bias n x)

/-- LIN.U.RC (R140). -/
def execLinURC (scaled bias : Bool) (s : State) : Host.Outcome State Fault Refusal :=
  cycle (.linURC scaled bias) (linBody false false scaled bias) s

/-- LIN.U.TC (R141). -/
def execLinUTC (scaled bias : Bool) (s : State) : Host.Outcome State Fault Refusal :=
  cycle (.linUTC scaled bias) (linBody false true scaled bias) s

/-- LIN.B.RC (R142). -/
def execLinBRC (scaled bias : Bool) (s : State) : Host.Outcome State Fault Refusal :=
  cycle (.linBRC scaled bias) (linBody true false scaled bias) s

/-- LIN.B.TC (R143). -/
def execLinBTC (scaled bias : Bool) (s : State) : Host.Outcome State Fault Refusal :=
  cycle (.linBTC scaled bias) (linBody true true scaled bias) s

end Sys2Proof.Machine
end

