-- ==== Sys2Proof/Machine/Mul.lean ====
section
/-! DEFINITION. The stochastic multipliers (`spec/41_multiplier.md`). -/

namespace Sys2Proof.Machine

/-! ### One lane -/

/-- MUL.AND: `a & b` (R110). -/
def andGate (a b : Bool) : Bool := a && b

/-- MUL.XNOR: `1 - (a ^ b)` (R111). -/
def xnorGate (a b : Bool) : Bool := !(a ^^ b)

/-- MUL.SU: `a & Gen(M, c1, S)` (R112). -/
def suOut (p : Nat) (s : List Int) (m : Int) (c1 : Nat) (a : Bool) : Bool := a && gen p s m c1

/-- MUL.SB: the path taken when the live bit is 1, or the inverted bit of the path taken when it is 0
(R113). -/
def sbOut (p : Nat) (s1 s0 : List Int) (m : Int) (c1 c0 : Nat) (a : Bool) : Bool :=
  (a && gen p s1 m c1) || (!a && !gen p s0 m c0)

/-! ### The operations -/

/-- `out[b][l] = a[b][l] & b[b][l]`; stateless (R110). -/
def mulAndBody (n : Inst) (x : Inputs) : CycleResult :=
  .commit n.regs (.bits (tab2 n.batch n.e (fun b l => andGate (x.left b l) (x.right b l))))

/-- `out[b][l] = 1 - (a[b][l] ^ b[b][l])`; stateless (R111). -/
def mulXnorBody (n : Inst) (x : Inputs) : CycleResult :=
  .commit n.regs (.bits (tab2 n.batch n.e (fun b l => xnorGate (x.left b l) (x.right b l))))

/-- The cycle of MUL.SU (R112): `c1` advances by the live bit. -/
def mulSuBody (n : Inst) (x : Inputs) : CycleResult :=
  .commit
    { n.regs with c1 := tab2 n.batch n.e (fun b l => advance n.period (at2 n.regs.c1 b l) (x.bit b l)) }
    (.bits (tab2 n.batch n.e (fun b l =>
      suOut n.period n.seq (at1 n.m l) (at2 n.regs.c1 b l) (x.bit b l))))

/-- The cycle of MUL.SB (R113): `c1` advances by the live bit, `c0` by its complement. -/
def mulSbBody (n : Inst) (x : Inputs) : CycleResult :=
  .commit
    { n.regs with
      c1 := tab2 n.batch n.e (fun b l => advance n.period (at2 n.regs.c1 b l) (x.bit b l))
      c0 := tab2 n.batch n.e (fun b l => advance n.period (at2 n.regs.c0 b l) (!x.bit b l)) }
    (.bits (tab2 n.batch n.e (fun b l =>
      sbOut n.period n.seq n.seq0 (at1 n.m l) (at2 n.regs.c1 b l) (at2 n.regs.c0 b l) (x.bit b l))))

/-- MUL.AND (R110). -/
def execMulAND (s : State) : Host.Outcome State Fault Refusal := cycle .mulAND mulAndBody s

/-- MUL.XNOR (R111). -/
def execMulXNOR (s : State) : Host.Outcome State Fault Refusal := cycle .mulXNOR mulXnorBody s

/-- MUL.SU (R112). -/
def execMulSU (s : State) : Host.Outcome State Fault Refusal := cycle .mulSU mulSuBody s

/-- MUL.SB (R113). -/
def execMulSB (s : State) : Host.Outcome State Fault Refusal := cycle .mulSB mulSbBody s

/-- MUL.IS (R114): requesting it raises ConfigurationError(in_stream_multiplication); no instance ever
exists. -/
def execMulIS (s : State) : Host.Outcome State Fault Refusal := raiseConfiguration .inStreamMultiplication s

end Sys2Proof.Machine
end

