-- ==== Sys2Proof/Machine/Commands.lean ====
section
/-! DEFINITION. The commands (`spec/46_commands.md`): CONSTRUCT, STEP, REPLACE and the reserved code. -/

namespace Sys2Proof.Machine

/-- CONSTRUCT (R181): creates one instance, whose handle is reported, or raises an error or is refused, and
then no instance is created. No other instance is touched. -/
def execConstruct (s : State) : Host.Outcome State Fault Refusal :=
  match s.commands with
  | [] => .fault .noCommand
  | c :: _ =>
    match buildDesc c.desc c.params with
    | .failed e => raiseError s c none e
    | .refused why => decline s c why
    | .made n => .next (answer { s with insts := s.insts ++ [n] } c (.constructed s.insts.length))

/-- The meaning of the operation an instance performs (R3, R182). A command code is no operation. -/
def runOperation (i : Instr) (s : State) : Host.Outcome State Fault Refusal :=
  match i with
  | .bsgU => execBsgU s
  | .bsgB => execBsgB s
  | .mulAND => execMulAND s
  | .mulXNOR => execMulXNOR s
  | .mulSU => execMulSU s
  | .mulSB => execMulSB s
  | .mulIS => execMulIS s
  | .addSC => execAddSC s
  | .addNSU => execAddNSU s
  | .addNSB => execAddNSB s
  | .addGMUX => execAddGMUX s
  | .addGOR => execAddGOR s
  | .addGNSB => execAddGNSB s
  | .linURC scaled bias => execLinURC scaled bias s
  | .linUTC scaled bias => execLinUTC scaled bias s
  | .linBRC scaled bias => execLinBRC scaled bias s
  | .linBTC scaled bias => execLinBTC scaled bias s
  | .linHUB bias rnd => execLinHUB bias rnd s
  | .linFXP bias rnd keep more => execLinFXP bias rnd keep more s
  | .reluRC => execReluRC s
  | .reluSR => execReluSR s
  | .reluTC => execReluTC s
  | .construct => .fault .wrongOperation
  | .step => .fault .wrongOperation
  | .replace => .fault .wrongOperation
  | .cmdReserved => .fault .wrongOperation

/-- STEP (R182): one cycle of the operation the addressed instance was constructed with. -/
def execStep (s : State) : Host.Outcome State Fault Refusal :=
  match s.commands with
  | [] => .fault .noCommand
  | c :: _ =>
    match s.insts[c.inst]? with
    | none => decline s c .noInstance
    | some n => runOperation n.op s

/-- REPLACE on an instance that is not dead: the instance with the new table, or the refusal (R183, U8). Only
a table the operation reads is there to be replaced; it keeps its shape and its level range. Counters,
accumulators and the HUB table keep their values. -/
def replaceTable (n : Inst) (which : Which) (t : Table) : Except Decline Inst :=
  let r := readsOf n.op
  match which, t with
  | .levels, .ints1 v =>
    if !r.m then .error .noSuchTable
    else if !hasShape1 n.e v then .error .tableShape
    else if !v.all (legalLevel n.period) then .error .levelRange
    else .ok { n with m := v }
  | .weightLevels, .ints2 v =>
    if !r.mw then .error .noSuchTable
    else if !hasShape2 n.o n.n v then .error .tableShape
    else if !v.all (fun u => u.all (legalLevel n.period)) then .error .levelRange
    else .ok { n with mw := v }
  | .biasLevels, .ints1 v =>
    if !r.mb then .error .noSuchTable
    else if !hasShape1 n.o v then .error .tableShape
    else if !v.all (legalLevel n.period) then .error .levelRange
    else .ok { n with mb := v }
  | .weights, .rats2 v =>
    if !r.w then .error .noSuchTable
    else if !hasShape2 n.o n.n v then .error .tableShape
    else .ok { n with w := v }
  | .bias, .rats1 v =>
    if !r.c then .error .noSuchTable
    else if !hasShape1 n.o v then .error .tableShape
    else .ok { n with c := v }
  | .levels, _ => .error (if r.m then .tableShape else .noSuchTable)
  | .weightLevels, _ => .error (if r.mw then .tableShape else .noSuchTable)
  | .biasLevels, _ => .error (if r.mb then .tableShape else .noSuchTable)
  | .weights, _ => .error (if r.w then .tableShape else .noSuchTable)
  | .bias, _ => .error (if r.c then .tableShape else .noSuchTable)

/-- REPLACE (R183): an unknown handle and a dead instance are refused; otherwise the table is replaced or the
replacement refused. -/
def execReplace (s : State) : Host.Outcome State Fault Refusal :=
  match s.commands with
  | [] => .fault .noCommand
  | c :: _ =>
    match s.insts[c.inst]? with
    | none => decline s c .noInstance
    | some n =>
      if n.isDead then decline s c .deadInstance
      else
        match replaceTable n c.which c.table with
        | .error why => decline s c why
        | .ok n' => .next (answer (setInst s c.inst n') c .replaced)

/-- Command code `11` (R85, U9): refused; the command is not performed and nothing changes. -/
def execCmdReserved (s : State) : Host.Outcome State Fault Refusal :=
  match s.commands with
  | [] => .fault .noCommand
  | c :: _ => decline s c .reservedCommand

end Sys2Proof.Machine
end

