-- ==== Sys2Proof/Machine/Dispatch.lean ====
section
/-! DEFINITION. The meaning of every instruction: one arm per constructor, one call per arm. -/

namespace Sys2Proof.Machine

def exec (i : Instr) (s : State) : Host.Outcome State Fault Refusal :=
  match i with
  | .bsgU => Sys2Proof.Machine.execBsgU s
  | .bsgB => Sys2Proof.Machine.execBsgB s
  | .mulAND => Sys2Proof.Machine.execMulAND s
  | .mulXNOR => Sys2Proof.Machine.execMulXNOR s
  | .mulSU => Sys2Proof.Machine.execMulSU s
  | .mulSB => Sys2Proof.Machine.execMulSB s
  | .mulIS => Sys2Proof.Machine.execMulIS s
  | .addSC => Sys2Proof.Machine.execAddSC s
  | .addNSU => Sys2Proof.Machine.execAddNSU s
  | .addNSB => Sys2Proof.Machine.execAddNSB s
  | .addGMUX => Sys2Proof.Machine.execAddGMUX s
  | .addGOR => Sys2Proof.Machine.execAddGOR s
  | .addGNSB => Sys2Proof.Machine.execAddGNSB s
  | .linURC scaled bias => Sys2Proof.Machine.execLinURC scaled bias s
  | .linUTC scaled bias => Sys2Proof.Machine.execLinUTC scaled bias s
  | .linBRC scaled bias => Sys2Proof.Machine.execLinBRC scaled bias s
  | .linBTC scaled bias => Sys2Proof.Machine.execLinBTC scaled bias s
  | .linHUB bias rnd => Sys2Proof.Machine.execLinHUB bias rnd s
  | .linFXP bias rnd keep more => Sys2Proof.Machine.execLinFXP bias rnd keep more s
  | .reluRC => Sys2Proof.Machine.execReluRC s
  | .reluSR => Sys2Proof.Machine.execReluSR s
  | .reluTC => Sys2Proof.Machine.execReluTC s
  | .construct => Sys2Proof.Machine.execConstruct s
  | .step => Sys2Proof.Machine.execStep s
  | .replace => Sys2Proof.Machine.execReplace s
  | .cmdReserved => Sys2Proof.Machine.execCmdReserved s

end Sys2Proof.Machine
end

