-- ==== Sys2Proof/Machine/Fetch.lean ====
section
/-! DEFINITION. What the machine executes next: the code of the caller's next command (R85). Beside it, how
one word of the opcode table is put where the next step executes it (log 14). -/

namespace Sys2Proof.Machine

/-- The instruction of the next command, if the caller presents one. -/
def fetch (s : State) : Option Instr :=
  match s.commands with
  | [] => none
  | c :: _ => some (decodeCmd c.code)

/-- The smallest parameter record every operation accepts: all sizes 1, `B = 1`, all tables supplied
(log 14). -/
def smallestParams : Params :=
  { bitwidth := 1, depth := 1, n := 1, o := 1, e := 1, batch := 1, seq := some [0, 1], seq0 := none, seqb := none,
    muxSeq := some [0], m := some [0], mw := some [[0]], mb := some [0], w := some [[0]], c := some [0] }

/-- Inputs of zeros for an instance made from the smallest record (log 14). -/
def zeroInputs (i : Instr) : Inputs :=
  match inputKind i with
  | .indices => .indices [[0]]
  | .pairs => .pairs [[false]] [[false]]
  | .elements => .lanes [[false]]
  | .features => .lanes [[false]]
  | .axes => .axes [[[false]]]
  | .reals => .reals [[0]]
  | .nothing => .lanes [[false]]

/-- A command with a given code and descriptor, addressing a handle (log 14). -/
def plainCommand (code : CmdCode) (handle : Nat) (d : Desc) (x : Inputs) : Command :=
  { code := code, inst := handle, desc := d, params := smallestParams, feed := .given x, which := .levels
    table := .ints1 [0] }

/-- A descriptor word placed for the next step (log 14). The operation it selects runs as one STEP of a fresh
instance constructed with it; a descriptor no instance can have runs as the CONSTRUCT that fails. -/
def placeDesc (s : State) (d : Desc) : State :=
  match buildDesc d smallestParams with
  | .made n =>
    { s with
      insts := s.insts ++ [n]
      commands := plainCommand 1 s.insts.length d (zeroInputs n.op) :: s.commands }
  | _ => { s with commands := plainCommand 0 s.insts.length d (.lanes [[false]]) :: s.commands }

/-- A command code placed for the next step (log 14). STEP and REPLACE address a fresh MUL.SU instance
(descriptor `0x1200`), which CONSTRUCT and the reserved code need not have. -/
def placeCmd (s : State) (code : CmdCode) : State :=
  let cmd := plainCommand code s.insts.length 0x1200 (.lanes [[false]])
  match decodeCmd code with
  | .step => { s with insts := s.insts ++ [makeInst .mulSU smallestParams], commands := cmd :: s.commands }
  | .replace => { s with insts := s.insts ++ [makeInst .mulSU smallestParams], commands := cmd :: s.commands }
  | _ => { s with commands := cmd :: s.commands }

/-- One table word placed for the next step: a command code for at most 8 bits, else a descriptor (log 15). -/
def placeWord (s : State) (nbits w : Nat) : State :=
  if nbits ≤ 8 then placeCmd s (BitVec.ofNat 2 w) else placeDesc s (BitVec.ofNat 16 w)

end Sys2Proof.Machine
end

