-- ==== Sys2Proof/Machine/Step.lean ====
section
/-! DEFINITION. One step of the machine: the caller's next command (R180). -/

namespace Sys2Proof.Machine

/-- Executes the next command. With no command presented nothing happens: "between two commands nothing
changes" (R180), and an instance that gets no command keeps its state indefinitely (R204). -/
def step (s : State) : Host.Outcome State Fault Refusal :=
  match fetch s with
  | none => .next s
  | some i => exec i s

/-- The state with one word of the opcode table placed where the next step executes it (log 14). -/
def State.withFetchWord (s : State) (nbits w : Nat) : State := placeWord s nbits w

end Sys2Proof.Machine
end

