-- ==== Sys2Proof/Safety.lean ====
section
/-! DEFINITION. The words the claims use: when an operation runs, what its next state is, when a construction
is legal, and which instances and states are legal. -/

namespace Sys2Proof.Machine

/-! ### A cycle that runs -/

/-- The next command of `s` is `c`; it addresses the live instance `n`, which performs operation `i`, and
supplies the inputs `x`, of the shape fixed at construction (R182). -/
structure Running (s : State) (i : Instr) (c : Command) (n : Inst) (x : Inputs) : Prop where
  presented : s.commands.head? = some c
  addressed : s.insts[c.inst]? = some n
  live : n.dead = false
  performs : n.op = i
  supplied : c.feed.resolve s.reports = some x
  fits : n.fits x = true

/-- The state after a cycle that commits registers `r` and returns `y`: the addressed instance has the new
registers and nothing else new, the command is retired, the outputs are reported (R182). -/
def afterCycle (s : State) (c : Command) (n : Inst) (r : Regs) (y : Outputs) : State :=
  { insts := s.insts.set c.inst { n with regs := r }
    commands := s.commands.tail
    reports := { code := c.code, inst := c.inst, response := .stepped y } :: s.reports }

/-- The state after a command that changes no instance and is answered with `r`. -/
def afterAnswer (s : State) (c : Command) (r : Response) : State :=
  { insts := s.insts
    commands := s.commands.tail
    reports := { code := c.code, inst := c.inst, response := r } :: s.reports }

/-- The descriptors that select an operation are those that match under a mask (R82). -/
def SelectedBy (i : Instr) (mask pat : Desc) : Prop := ∀ d : Desc, decodeDesc d = .ok i ↔ d &&& mask = pat

/-- Entry `b` of each of the eleven batch-indexed registers of `r` (R22) is entry `b'` of that of `r'`. -/
def SameEntry (r : Regs) (b : Nat) (r' : Regs) (b' : Nat) : Prop :=
  at1 r.c1 b = at1 r'.c1 b' ∧ at1 r.c0 b = at1 r'.c0 b' ∧ at1 r.acc b = at1 r'.acc b' ∧
    at1 r.acc2 b = at1 r'.acc2 b' ∧ at1 r.oacc b = at1 r'.oacc b' ∧ at1 r.cw b = at1 r'.cw b' ∧
    at1 r.cwi b = at1 r'.cwi b' ∧ at1 r.racc b = at1 r'.racc b' ∧ at1 r.ring b = at1 r'.ring b' ∧
    at1 r.pop b = at1 r'.pop b' ∧ at1 r.tacc b = at1 r'.tacc b'

/-- Two inputs agree on batch entry `b`. -/
def Inputs.AgreeAt (x x' : Inputs) (b : Nat) : Prop :=
  ∀ l o : Nat, x.index b l = x'.index b l ∧ x.left b l = x'.left b l ∧ x.right b l = x'.right b l ∧
    x.bit b l = x'.bit b l ∧ x.axis b l o = x'.axis b l o

/-- Two instances, whatever their batch sizes, agree on all that R11 lets batch entry `b` depend on: the
configuration, the tables, the registers without a batch index, and entry `b` of the batch-indexed registers. -/
structure Inst.AgreeAt (n n' : Inst) (b : Nat) : Prop where
  configuration : n' = { n with batch := n'.batch, regs := n'.regs, dead := n'.dead, err := n'.err }
  shared : n'.regs.mc = n.regs.mc ∧ n'.regs.cb = n.regs.cb ∧ n'.regs.first = n.regs.first ∧
    n'.regs.cyc = n.regs.cyc
  entry : SameEntry n'.regs b n.regs b

/-! ### Named properties -/

/-- `SeqIsPermutation(S)` (R61): the table holds every value of `[0, P)` once. Never assumed by the model. -/
def SeqIsPermutation (p : Nat) (s : List Int) : Prop := s.Perm ((List.range p).map (fun k => (k : Int)))

/-- `e` is `Shift(V)` (R152). -/
def IsShift (v : List Rat) (e : Int) : Prop :=
  ((∀ q ∈ v, q = 0) ∧ e = 0) ∨
    ((∃ q ∈ v, q ≠ 0) ∧ (∀ q ∈ v, |q| ≤ (2 : Rat) ^ e) ∧
      ∀ e' : Int, (∀ q ∈ v, |q| ≤ (2 : Rat) ^ e') → e ≤ e')

/-- The half-width of a rounding mode's error: `1/2` for round, 1 for floor and ceil (R159). -/
def roundingUnit : Rounding → Rat
  | .round => 1 / 2
  | .floor => 1
  | .ceil => 1

/-! ### Streams: the same lane or instance over successive cycles -/

/-- The outputs of an instance over successive inputs, from its present registers, until an error. -/
def streamOf (body : Inst → Inputs → CycleResult) : Inst → List Inputs → List Outputs
  | _, [] => []
  | n, x :: xs =>
    match body n x with
    | .commit r y => y :: streamOf body { n with regs := r } xs
    | .raise _ => []

/-- A MUL.SU lane over a live stream, from counter `c`. -/
def suStream (p : Nat) (s : List Int) (m : Int) : Nat → List Bool → List Bool
  | _, [] => []
  | c, a :: as => suOut p s m c a :: suStream p s m (advance p c a) as

/-- A scaled accumulator over a window of counts: the outputs and the final accumulator. -/
def scaledRun (bound : Nat) : Nat → List Nat → List Bool × Nat
  | acc, [] => ([], acc)
  | acc, k :: ks =>
    let rest := scaledRun bound (scaledNext bound acc k) ks
    (scaledOut bound acc k :: rest.1, rest.2)

/-- A non-scaled accumulator pair `(2·acc, oacc)` after a window of counts. -/
def nonscaledRun (offset2 : Int) : Int × Nat → List Nat → Int × Nat
  | r, [] => r
  | r, k :: ks => nonscaledRun offset2 (nonscaledSum offset2 r.1 k, nonscaledOacc offset2 r.1 r.2 k) ks

/-- The accumulator of a RELU.RC lane after a window of input bits. -/
def rcRun (depth : Nat) : Nat → List Bool → Nat
  | racc, [] => racc
  | racc, x :: xs => rcRun depth (rcNext depth racc x) xs

/-- A RELU.TC lane with threshold `t` over an input stream, from the counts `cyc` and `tacc`. -/
def tcStream (t : Nat) : Nat → Nat → List Bool → List Bool
  | _, _, [] => []
  | cyc, tacc, x :: xs => tcOut t cyc tacc x :: tcStream t (cyc + 1) (tacc + bitNat x) xs

/-! ### Legal constructions -/

/-- Every parameter the operation reads is in the stated type (R42, R43, R46, R191 (7)). -/
def ParamsInRange (i : Instr) (p : Params) : Prop :=
  1 ≤ p.batch ∧
    match i with
    | .bsgU => 1 ≤ p.bitwidth ∧ 1 ≤ p.e
    | .bsgB => 1 ≤ p.bitwidth ∧ 1 ≤ p.e
    | .mulAND => 1 ≤ p.e
    | .mulXNOR => 1 ≤ p.e
    | .mulSU => 1 ≤ p.bitwidth ∧ 1 ≤ p.e
    | .mulSB => 1 ≤ p.bitwidth ∧ 1 ≤ p.e
    | .mulIS => True
    | .addSC => 1 ≤ p.n ∧ 1 ≤ p.o
    | .addNSU => 1 ≤ p.n ∧ 1 ≤ p.o
    | .addNSB => 1 ≤ p.n ∧ 1 ≤ p.o
    | .addGMUX => 1 ≤ p.n ∧ 1 ≤ p.o
    | .addGOR => 1 ≤ p.n ∧ 1 ≤ p.o
    | .addGNSB => True
    | .linURC _ _ => 1 ≤ p.bitwidth ∧ 1 ≤ p.n ∧ 1 ≤ p.o
    | .linUTC _ _ => 1 ≤ p.bitwidth ∧ 1 ≤ p.n ∧ 1 ≤ p.o
    | .linBRC _ _ => 1 ≤ p.bitwidth ∧ 1 ≤ p.n ∧ 1 ≤ p.o
    | .linBTC _ _ => 1 ≤ p.bitwidth ∧ 1 ≤ p.n ∧ 1 ≤ p.o
    | .linHUB _ _ => 1 ≤ p.bitwidth ∧ 1 ≤ p.n ∧ 1 ≤ p.o
    | .linFXP _ _ _ _ => 1 ≤ p.bitwidth ∧ 1 ≤ p.n ∧ 1 ≤ p.o
    | .reluRC => 1 ≤ p.depth ∧ 1 ≤ p.e
    | .reluSR => 1 ≤ p.depth ∧ 1 ≤ p.e
    | .reluTC => 1 ≤ p.bitwidth ∧ 1 ≤ p.e
    | .construct => True
    | .step => True
    | .replace => True
    | .cmdReserved => True

/-- `more_res` is invalid and examined: KEEP = output, B odd, MORE code 2 or 3 (R156). -/
def MoreResInvalid (i : Instr) (p : Params) : Prop :=
  ∃ bias rf more, i = .linFXP bias rf .output more ∧ p.bitwidth % 2 = 1 ∧ (more = .code2 ∨ more = .code3)

/-- A sequence table honours the contract for `B` (R60). -/
def SequenceLegal (bitwidth : Int) (s : List Int) : Prop :=
  s.length = 2 ^ bitwidth.toNat ∧ ∀ v ∈ s, 0 ≤ v ∧ v < (2 : Int) ^ bitwidth.toNat

/-- A level for `B` (R62). -/
def LevelLegal (bitwidth : Int) (v : Int) : Prop := 0 ≤ v ∧ v ≤ (2 : Int) ^ bitwidth.toNat

/-- A construction that violates nothing (R181): the operation is not one of the two illegal rows, fields and
parameters are legal, and every table the operation reads is supplied with its shape and range. -/
structure Admissible (i : Instr) (p : Params) : Prop where
  notInStream : i ≠ .mulIS
  notGaines : i ≠ .addGNSB
  fields : i.wellFormed = true
  params : ParamsInRange i p
  smoothDepth : i = .reluSR → p.depth ≤ 127
  moreRes : ¬ MoreResInvalid i p
  seq : (readsOf i).seq = true → ∃ t, p.seq = some t ∧ SequenceLegal p.bitwidth t
  seq0 : (readsOf i).seq0 = true → ∀ t, p.seq0 = some t → SequenceLegal p.bitwidth t
  seqb : (readsOf i).seqb = true → ∀ t, p.seqb = some t → SequenceLegal p.bitwidth t
  mux : (readsOf i).mux = true → ∃ t, p.muxSeq = some t ∧ t ≠ []
  m : (readsOf i).m = true → ∃ t, p.m = some t ∧ t.length = p.e.toNat ∧ ∀ v ∈ t, LevelLegal p.bitwidth v
  mw : (readsOf i).mw = true → ∃ t, p.mw = some t ∧ hasShape2 p.o.toNat p.n.toNat t = true ∧
    ∀ u ∈ t, ∀ v ∈ u, LevelLegal p.bitwidth v
  mb : (readsOf i).mb = true → ∃ t, p.mb = some t ∧ t.length = p.o.toNat ∧ ∀ v ∈ t, LevelLegal p.bitwidth v
  w : (readsOf i).w = true → ∃ t, p.w = some t ∧ hasShape2 p.o.toNat p.n.toNat t = true
  c : (readsOf i).c = true → ∃ t, p.c = some t ∧ t.length = p.o.toNat

/-- Two parameter records agree on the batch size and on every parameter and table the operation reads (R86). -/
structure AgreeOnReads (i : Instr) (p q : Params) : Prop where
  batch : p.batch = q.batch
  bitwidth : (readsOf i).bitwidth = true → p.bitwidth = q.bitwidth
  depth : (readsOf i).depth = true → p.depth = q.depth
  axis : (readsOf i).axis = true → p.n = q.n ∧ p.o = q.o
  lanes : (readsOf i).lanes = true → p.e = q.e
  seq : (readsOf i).seq = true → p.seq = q.seq
  seq0 : (readsOf i).seq0 = true → p.seq0 = q.seq0
  seqb : (readsOf i).seqb = true → p.seqb = q.seqb
  mux : (readsOf i).mux = true → p.muxSeq = q.muxSeq
  m : (readsOf i).m = true → p.m = q.m
  mw : (readsOf i).mw = true → p.mw = q.mw
  mb : (readsOf i).mb = true → p.mb = q.mb
  w : (readsOf i).w = true → p.w = q.w
  c : (readsOf i).c = true → p.c = q.c

/-! ### Replacements -/

/-- The operation has the table a selector names (R62, R183). -/
def hasTable (i : Instr) : Which → Bool
  | .levels => (readsOf i).m
  | .weightLevels => (readsOf i).mw
  | .biasLevels => (readsOf i).mb
  | .weights => (readsOf i).w
  | .bias => (readsOf i).c

/-- The new table is of the selected table's kind and has its shape (R183): `M[E]`, `Mw[O][N]`, `Mb[O]`, and
`w[O][N]`, `c[O]` of the fast paths. -/
def Inst.TableFits (n : Inst) (which : Which) (t : Table) : Prop :=
  match which with
  | .levels => ∃ v, t = .ints1 v ∧ v.length = n.e
  | .weightLevels => ∃ v, t = .ints2 v ∧ v.length = n.o ∧ ∀ u ∈ v, u.length = n.n
  | .biasLevels => ∃ v, t = .ints1 v ∧ v.length = n.o
  | .weights => ∃ v, t = .rats2 v ∧ v.length = n.o ∧ ∀ u ∈ v, u.length = n.n
  | .bias => ∃ v, t = .rats1 v ∧ v.length = n.o

/-- The levels in a new table; a rational tensor has none. -/
def Table.levels : Table → List Int
  | .ints1 v => v
  | .ints2 v => v.flatten
  | .rats1 _ => []
  | .rats2 _ => []

/-! ### Legal instances and states -/

/-- The operation has a bias lane. -/
def hasBias : Instr → Bool
  | .linURC _ bias => bias
  | .linUTC _ bias => bias
  | .linBRC _ bias => bias
  | .linBTC _ bias => bias
  | .linHUB bias _ => bias
  | .linFXP bias _ _ _ => bias
  | _ => false

/-- The operation's non-scaled stage subtracts no offset: ADD.NSU and the unipolar LIN variants. -/
def zeroOffset : Instr → Bool
  | .addNSU => true
  | .linURC _ _ => true
  | .linUTC _ _ => true
  | _ => false

/-- A register of two indices: present with its shape and every lane in range, or absent. -/
def Holds2 {α : Type} [Inhabited α] (own : Bool) (r c : Nat) (t : List (List α)) (ok : Nat → Nat → α → Prop) :
    Prop :=
  if own = true then hasShape2 r c t = true ∧ ∀ i, i < r → ∀ j, j < c → ok i j (at2 t i j) else t = []

/-- A register of three indices: present with its shape and every lane below a limit, or absent. -/
def Holds3 (own : Bool) (r c d : Nat) (t : List (List (List Nat))) (limit : Nat) : Prop :=
  if own = true then
    hasShape3 r c d t = true ∧ ∀ i, i < r → ∀ j, j < c → ∀ k, k < d → at3 t i j k < limit
  else t = []

/-- Every register is in the range R22 gives it (R23 to R28), and only the operation's own registers are
present. -/
structure RegsLegal (n : Inst) : Prop where
  c1 : Holds2 (ownsOf n.op).c1 n.batch n.e n.regs.c1 (fun _ _ v => v < n.period)
  c0 : Holds2 (ownsOf n.op).c0 n.batch n.e n.regs.c0 (fun _ _ v => v < n.period)
  acc : Holds2 (ownsOf n.op).acc n.batch n.o n.regs.acc (fun _ _ v => v < boundOf n.n (hasBias n.op))
  acc2 : Holds2 (ownsOf n.op).nonscaled n.batch n.o n.regs.acc2
    (fun b o v => zeroOffset n.op = true → v % 2 = 0 ∧ 2 * ((at2 n.regs.oacc b o : Nat) : Int) ≤ v)
  oacc : Holds2 (ownsOf n.op).nonscaled n.batch n.o n.regs.oacc (fun _ _ _ => True)
  mc : if (ownsOf n.op).mc = true then n.regs.mc < n.muxSeq.length else n.regs.mc = 0
  cw : Holds3 (ownsOf n.op).cw n.batch n.o n.n n.regs.cw n.period
  cwi : Holds3 (ownsOf n.op).cwi n.batch n.o n.n n.regs.cwi n.period
  cb : if (ownsOf n.op).cb = true then
      n.regs.cb.length = n.o ∧ ∀ o, o < n.o → at1 n.regs.cb o < n.period
    else n.regs.cb = []
  racc : Holds2 (ownsOf n.op).racc n.batch n.e n.regs.racc
    (fun _ _ v => halfOf n.depth ≤ v + 1 ∧ v ≤ accMaxOf n.depth)
  ring : Holds2 (ownsOf n.op).ring n.batch n.e n.regs.ring (fun _ _ r => r.length = n.depth)
  pop : Holds2 (ownsOf n.op).ring n.batch n.e n.regs.pop (fun b l v => v = (at2 n.regs.ring b l).count true)
  first : (ownsOf n.op).ring = false → n.regs.first = false
  tacc : Holds2 (ownsOf n.op).tacc n.batch n.e n.regs.tacc (fun _ _ v => v ≤ n.regs.cyc)
  cyc : (ownsOf n.op).tacc = false → n.regs.cyc = 0

/-- An instance as CONSTRUCT makes it and the commands keep it: an operation that can be constructed, sizes
and tables legal (R40 to R46, R60 to R64, R151, R156), registers in range (R22), and `dead` set only with
code 3 on ADD.GMUX (R190, R193). -/
structure Inst.Legal (n : Inst) : Prop where
  operation : inputKind n.op ≠ .nothing
  fields : n.op.wellFormed = true
  batch : 1 ≤ n.batch
  axis : (readsOf n.op).axis = true → 1 ≤ n.n ∧ 1 ≤ n.o
  lanes : (readsOf n.op).lanes = true → 1 ≤ n.e
  bitwidth : (readsOf n.op).bitwidth = true → 1 ≤ n.bitwidth
  depth : (readsOf n.op).depth = true → 1 ≤ n.depth
  smoothDepth : n.op = .reluSR → n.depth ≤ 127
  seq : (readsOf n.op).seq = true → legalSequence n.period n.seq = true
  seq0 : (readsOf n.op).seq0 = true → legalSequence n.period n.seq0 = true
  seqb : (readsOf n.op).seqb = true → legalSequence n.period n.seqb = true
  mux : (readsOf n.op).mux = true → n.muxSeq ≠ []
  m : (readsOf n.op).m = true → hasShape1 n.e n.m = true ∧ ∀ v ∈ n.m, legalLevel n.period v = true
  mw : (readsOf n.op).mw = true →
    hasShape2 n.o n.n n.mw = true ∧ ∀ u ∈ n.mw, ∀ v ∈ u, legalLevel n.period v = true
  mb : (readsOf n.op).mb = true → hasShape1 n.o n.mb = true ∧ ∀ v ∈ n.mb, legalLevel n.period v = true
  w : (readsOf n.op).w = true → hasShape2 n.o n.n n.w = true
  c : (readsOf n.op).c = true → hasShape1 n.o n.c = true
  lut : ∀ bias rf, n.op = .linHUB bias rf → n.lut = hubTable n.period n.seq
  budgets : ∀ bias rf keep more, n.op = .linFXP bias rf keep more →
    fxpBudgets n.bitwidth keep more = some (n.bi, n.bw)
  regs : RegsLegal n
  status : (n.dead = false ∧ n.err = 0) ∨ (n.op = .addGMUX ∧ n.dead = true ∧ n.err = 3)

/-- A state whose instances are all legal. Nothing is asked of the caller's commands or of the reports. -/
def State.Legal (s : State) : Prop := ∀ n ∈ s.insts, n.Legal

/-- What an instance keeps for its whole life: its operation, its sizes, and its sequence, index and lookup
tables and budgets (R20, R60, R63, R64; only levels and rational tensors can be replaced, R183). -/
def SameConfiguration (n n' : Inst) : Prop :=
  n'.op = n.op ∧ n'.bitwidth = n.bitwidth ∧ n'.depth = n.depth ∧ n'.n = n.n ∧ n'.o = n.o ∧ n'.e = n.e ∧
    n'.seq = n.seq ∧ n'.seq0 = n.seq0 ∧ n'.seqb = n.seqb ∧ n'.muxSeq = n.muxSeq ∧ n'.lut = n.lut ∧
    n'.bi = n.bi ∧ n'.bw = n.bw

end Sys2Proof.Machine
end

