-- ==== Sys2Proof/Certificates/Slice0/Obligations.lean ====
section
/-! DEFINITION. The statements for the provers. Each docstring says which rule of the spec it formalises. A
result of an operation is said lane by lane, in the words of its rule, for inputs of the shape fixed at
construction; `BatchGrowthRunsTheExpandedInstance` covers the one-time growth for every operation. In every
statement about a command the next state also retires the command and holds its report: these two lists, and that
`exec` of an operation runs one cycle of the addressed instance, are the model's own form (log 1, log 2, log 5). -/

open Sys2Proof Sys2Proof.Machine

/-! ### Encoding -/

/-- R82, R83: every instruction's word decodes to it, and a descriptor that decodes to an operation agrees
with that operation's word in every bit the row fixes or reads; the other bits are ignored (R84 (d)). -/
def Obligations.DecodeAndEncodeAgree : Prop :=
  (∀ i : Instr, decode (encode i) = .ok i) ∧
    ∀ (d : Desc) (i : Instr), decodeDesc d = .ok i → encode i = .desc16 (d &&& usedBits i)

/-- R84 (a): exactly the listed UNIT and VAR values are reserved; every other descriptor has an operation. -/
def Obligations.ReservedDescriptorsAreRejected : Prop :=
  ∀ d : Desc,
    let unit := (d.extractLsb' 12 4).toNat
    let var := (d.extractLsb' 9 3).toNat
    decodeDesc d = .error .reservedDescriptor ↔
      5 ≤ unit ∨ (unit = 0 ∧ var ≠ 0) ∨ (unit = 1 ∧ 3 ≤ var) ∨ (unit = 2 ∧ 2 ≤ var) ∨ (unit = 3 ∧ 3 ≤ var) ∨
        (unit = 4 ∧ 3 ≤ var)

/-- R82: "The rows are pairwise disjoint, so at most one matches"; there are 22. -/
def Obligations.OperationRowsAreDisjoint : Prop :=
  descRows.length = 22 ∧ descRows.Pairwise (fun r r' => ∀ d : Desc, ¬(r.selects d = true ∧ r'.selects d = true))

/-- R81, R82, R85: a few words and the instructions they stand for (vector V41 of the spec among them). -/
def Obligations.SampleWordsDecode : Prop :=
  decodeDesc 0x30A0 = .ok (.linURC true true) ∧ decodeDesc 0x31C0 = .ok (.linBTC true false) ∧
    decodeDesc 0x217F = .ok .addNSB ∧ decodeDesc 0x12FF = .ok .mulSU ∧ decodeDesc 0x45FF = .ok .reluTC ∧
    decodeDesc 0x3230 = .ok (.linHUB true (.mode .ceil)) ∧
    decodeDesc 0x3425 = .ok (.linFXP true (.mode .round) .output .weight) ∧
    decodeDesc 0x0200 = .error .reservedDescriptor ∧
    decodeCmd 0 = .construct ∧ decodeCmd 1 = .step ∧ decodeCmd 2 = .replace ∧ decodeCmd 3 = .cmdReserved

/-! ### The machine's step -/

/-- R85, R180, R182: a step is the meaning of the next command's instruction, and for a STEP command that of the
operation the addressed instance was constructed with; with no command presented nothing changes. The meaning
itself retires the command, so nothing is added around it. The list of commands and the idle step are the model's
choice (log 1), and so is that `exec` of an operation is one cycle (log 5). -/
def Obligations.StepRunsTheDecodedInstruction : Prop :=
  (∀ (s : State) (c : Command), s.commands.head? = some c →
      Machine.step s = exec (decodeCmd c.code) s) ∧
    (∀ (s : State) (c : Command) (n : Inst), s.commands.head? = some c → c.code = 1 →
      s.insts[c.inst]? = some n → inputKind n.op ≠ .nothing → Machine.step s = exec n.op s) ∧
    ∀ s : State, s.commands = [] → Machine.step s = .next s

/-- R182: on a live instance of legal state with fitting inputs STEP answers a next state: the registers and
the outputs of one cycle are committed, and the outputs returned, unless the MUX index read is illegal. -/
def Obligations.StepCommandCommitsACycle : Prop :=
  ∀ (s : State) (c : Command) (n : Inst) (x : Inputs), n.Legal → Running s n.op c n x →
    (n.op = .addGMUX → at1 n.muxSeq n.regs.mc < n.n) →
    ∃ (r : Regs) (y : Outputs), exec .step s = .next (afterCycle s c n r y)

/-- R180: every command completes, fails with one of the three errors or is refused; none stops the machine. That a
refusal is a next state is the model's choice (log 4). -/
def Obligations.EveryCommandCompletes : Prop :=
  ∀ s : State, s.Legal → ∃ t : State, Machine.step s = .next t

/-- R22 to R28 and R40 to R46: from every state of legal instances each step leads to a state of legal
instances: registers stay in range, the ring agrees with its count, tables keep shape and range. -/
def Obligations.StepKeepsInstancesLegal : Prop :=
  ∀ s t : State, s.Legal → Machine.step s = .next t → t.Legal

/-- R215, R218: after reset no instance exists, the state is legal, and a step without commands changes
nothing. That no command waits and none has been answered is the model's choice (log 1, log 2). -/
def Obligations.ResetStateIsLegal : Prop :=
  State.reset.Legal ∧ State.reset.insts = [] ∧ Machine.step State.reset = .next State.reset

/-- R71 item 4, R180, R203: a command is answered by exactly one report and touches no instance but the
one it addresses; CONSTRUCT touches none and may add one. -/
def Obligations.CommandTouchesOnlyTheAddressedInstance : Prop :=
  ∀ (s t : State) (c : Command), s.commands.head? = some c → Machine.step s = .next t →
    t.commands = s.commands.tail ∧
      (∃ r : Response, t.reports = { code := c.code, inst := c.inst, response := r } :: s.reports) ∧
      (∀ k, k < s.insts.length → (c.code = 0 ∨ k ≠ c.inst) → t.insts[k]? = s.insts[k]?) ∧
      (t.insts.length = s.insts.length ∨ (c.code = 0 ∧ t.insts.length = s.insts.length + 1))

/-- R71 item 4: "Different instances share no state, so their relative order is unobservable": two STEP or
REPLACE commands with given inputs, addressed to different instances, leave the same instances in either
order, and each command gets the same response in either order, the only thing a caller observes (R184). -/
def Obligations.CommandsToDifferentInstancesCommute : Prop :=
  ∀ (s : State) (a b : Command), s.Legal → (a.code = 1 ∨ a.code = 2) → (b.code = 1 ∨ b.code = 2) →
    a.inst ≠ b.inst → (∃ x, a.feed = .given x) → (∃ x, b.feed = .given x) →
    ∃ (t t' u u' : State) (ra rb : Response),
      Machine.step { s with commands := [a, b] } = .next t ∧ Machine.step t = .next t' ∧
      Machine.step { s with commands := [b, a] } = .next u ∧ Machine.step u = .next u' ∧
      t'.insts = u'.insts ∧ t'.commands = [] ∧ u'.commands = [] ∧
      t'.reports = { code := b.code, inst := b.inst, response := rb } ::
        { code := a.code, inst := a.inst, response := ra } :: s.reports ∧
      u'.reports = { code := a.code, inst := a.inst, response := ra } ::
        { code := b.code, inst := b.inst, response := rb } :: s.reports

/-- R20, R60, R63, R74: no command changes what an instance was constructed with: its operation, sizes,
sequence, index and lookup tables and budgets. -/
def Obligations.ConfigurationNeverChanges : Prop :=
  ∀ (s t : State) (k : Nat) (n : Inst), Machine.step s = .next t → s.insts[k]? = some n →
    ∃ n' : Inst, t.insts[k]? = some n' ∧ SameConfiguration n n'

/-- R27, R193, R197: an instance dies in one case only, a STEP of ADD.GMUX that reads an index not below N,
and a dead instance never changes again. -/
def Obligations.OnlyAnIllegalMuxIndexKills : Prop :=
  ∀ (s t : State) (k : Nat) (n n' : Inst), s.Legal → Machine.step s = .next t → s.insts[k]? = some n →
    t.insts[k]? = some n' →
    (n.dead = true → n' = n) ∧
      (n.dead = false → n'.dead = true →
        n.op = .addGMUX ∧ n.n ≤ at1 n.muxSeq n.regs.mc ∧ n' = { n with dead := true, err := 3 })

/-- R11: "A rule written without `b` applies to every batch entry independently": in a bit-serial operation the
outputs and registers of a batch entry depend on the configuration, the tables, the registers without a batch
index, and that entry's own registers and inputs only. Two instances that agree on these, whatever their batch
sizes and their other entries hold, end the cycle with the same outputs and registers at that entry, and with the
same registers without a batch index. -/
def Obligations.BatchEntriesAreIndependent : Prop :=
  ∀ (i : Instr) (s s' : State) (c c' : Command) (n n' : Inst) (x x' : Inputs) (r r' : Regs)
    (y y' : List (List Bool)) (b : Nat),
    Running s i c n x → Running s' i c' n' x' → n.AgreeAt n' b → x.AgreeAt x' b → b < n.batch → b < n'.batch →
    exec i s = .next (afterCycle s c n r (.bits y)) → exec i s' = .next (afterCycle s' c' n' r' (.bits y')) →
    at1 y b = at1 y' b ∧ SameEntry r b r' b ∧
      r.mc = r'.mc ∧ r.cb = r'.cb ∧ r.first = r'.first ∧ r.cyc = r'.cyc

/-! ### Batch growth, wiring and refused STEPs -/

/-- R47: a STEP with a larger batch on an instance of batch size 1 runs as on the instance expanded by copying
batch entry 0: the expanded instance is legal with the new batch size, each of its entries in each of the eleven
batch-indexed registers is entry 0 of the old one, and `mc`, `cb`, `first`, `cyc`, the configuration and the tables
are kept. (ADD.GMUX with an illegal index dies unexpanded, see the statement on it.) R47 lets a model accept the
growth; accepting it for every unit is the model's choice (log 8). -/
def Obligations.BatchGrowthRunsTheExpandedInstance : Prop :=
  ∀ (s : State) (c : Command) (n : Inst) (x : Inputs), n.Legal → s.commands.head? = some c →
    s.insts[c.inst]? = some n → n.dead = false → c.feed.resolve s.reports = some x → n.batch = 1 →
    1 < x.batch → n.fitsAt x.batch x = true → (n.op = .addGMUX → at1 n.muxSeq n.regs.mc < n.n) →
    let g := n.grow x.batch
    Running { s with insts := s.insts.set c.inst g } n.op c g x ∧
      exec n.op s = exec n.op { s with insts := s.insts.set c.inst g } ∧
      g.Legal ∧ g = { n with batch := x.batch, regs := g.regs } ∧
      (∀ b, b < x.batch → SameEntry g.regs b n.regs 0) ∧
      g.regs.mc = n.regs.mc ∧ g.regs.cb = n.regs.cb ∧ g.regs.first = n.regs.first ∧ g.regs.cyc = n.regs.cyc ∧
      ∃ (r : Regs) (y : Outputs), exec n.op s = .next (afterCycle s c g r y)

/-- R47, R226 and U3, U6: inputs of another kind or shape are refused, and so is every batch size but the
instance's own and the one-time growth from 1 to more: a smaller one, a second growth, and 0 entries. The instance
stays as it is and live. The form of a refusal is the model's choice (log 4). -/
def Obligations.UnfitInputsAreRefused : Prop :=
  ∀ (s : State) (c : Command) (n : Inst) (x : Inputs), n.Legal → s.commands.head? = some c → c.code = 1 →
    s.insts[c.inst]? = some n → n.dead = false → c.feed.resolve s.reports = some x →
    ((n.fitsAt x.batch x = false → Machine.step s = .next (afterAnswer s c (.declined .inputShape))) ∧
      (n.fitsAt x.batch x = true → n.fits x = false → ¬(n.batch = 1 ∧ 1 < x.batch) →
        Machine.step s = .next (afterAnswer s c (.declined .batchSize))))

/-- R185: when a STEP returns bits `y`, a next STEP fed from that instance runs as if given `y`: the
connection has zero cycles of latency and no register of its own. Naming a producer by its handle is the model's
choice (log 9). -/
def Obligations.WiredStepUsesTheSameCycleOutput : Prop :=
  ∀ (s t : State) (a c : Command) (y : List (List Bool)), s.commands.head? = some a → a.code = 1 →
    Machine.step s = .next t →
    t.reports.head? = some { code := a.code, inst := a.inst, response := .stepped (.bits y) } →
    t.commands.head? = some c → c.code = 1 → c.feed = .lanesOf [a.inst] →
    Machine.step t = Machine.step { t with commands := { c with feed := .given (.lanes y) } :: t.commands.tail }

/-- R197, R218, U5, U7: a STEP or REPLACE that names a dead instance or none is refused, and nothing
changes. The form of a refusal is the model's choice (log 4). -/
def Obligations.DeadOrUnknownInstanceIsRefused : Prop :=
  ∀ (s : State) (c : Command), s.commands.head? = some c → (c.code = 1 ∨ c.code = 2) →
    (s.insts[c.inst]? = none → Machine.step s = .next (afterAnswer s c (.declined .noInstance))) ∧
      ∀ n : Inst, s.insts[c.inst]? = some n → n.dead = true → n.Legal →
        Machine.step s = .next (afterAnswer s c (.declined .deadInstance))

/-- R85, U9: command code `11` is refused on every path: "refused by the model". The command is answered with
the refusal and nothing else changes; the form of a refusal is the model's choice (log 4). -/
def Obligations.ReservedCommandIsRefused : Prop :=
  ∀ (s : State) (c : Command), s.commands.head? = some c →
    exec .cmdReserved s = .next (afterAnswer s c (.declined .reservedCommand)) ∧
      (c.code = 3 → Machine.step s = .next (afterAnswer s c (.declined .reservedCommand)))

/-! ### CONSTRUCT -/

/-- R181: a CONSTRUCT that violates nothing creates one live instance of the descriptor's operation with the
sizes and tables given, appended to the others; any other record for that operation creates none. Handles by
position (log 3), the form of a refusal (log 4), the refused length of a level table (log 11) and the refused empty
MUX table (log 21) are the model's choices. -/
def Obligations.ConstructCreatesExactlyAdmissibleInstances : Prop :=
  ∀ (s : State) (c : Command) (i : Instr), s.commands.head? = some c → decodeDesc c.desc = .ok i →
    (Admissible i c.params →
      ∃ n : Inst,
        exec .construct s = .next
          { insts := s.insts ++ [n]
            commands := s.commands.tail
            reports := { code := c.code, inst := c.inst, response := .constructed s.insts.length } :: s.reports } ∧
        n.op = i ∧ n.dead = false ∧ n.err = 0 ∧ (n.batch : Int) = c.params.batch ∧ n.Legal ∧
        ((readsOf i).bitwidth = true → (n.bitwidth : Int) = c.params.bitwidth) ∧
        ((readsOf i).depth = true → (n.depth : Int) = c.params.depth) ∧
        ((readsOf i).axis = true → (n.n : Int) = c.params.n ∧ (n.o : Int) = c.params.o) ∧
        ((readsOf i).lanes = true → (n.e : Int) = c.params.e) ∧
        ((readsOf i).seq = true → c.params.seq = some n.seq) ∧
        ((readsOf i).seq0 = true → n.seq0 = c.params.seq0.getD n.seq) ∧
        ((readsOf i).seqb = true → n.seqb = c.params.seqb.getD n.seq) ∧
        ((readsOf i).mux = true → c.params.muxSeq = some n.muxSeq) ∧
        ((readsOf i).m = true → c.params.m = some n.m) ∧ ((readsOf i).mw = true → c.params.mw = some n.mw) ∧
        ((readsOf i).mb = true → c.params.mb = some n.mb) ∧ ((readsOf i).w = true → c.params.w = some n.w) ∧
        ((readsOf i).c = true → c.params.c = some n.c)) ∧
      (¬ Admissible i c.params →
        ∃ r : Response, exec .construct s = .next (afterAnswer s c r) ∧
          ((∃ e, r = .failed e) ∨ ∃ why, r = .declined why))

/-- R49: after CONSTRUCT succeeds every register the operation has is there with its lanes and its reset value: 0,
but `racc = 2^(DEPTH−1)`, `first = 1` and rings of DEPTH zeros. -/
def Obligations.ConstructedRegistersAreReset : Prop :=
  ∀ (i : Instr) (p : Params) (n : Inst), build i p = .made n →
    (∀ b l, at2 n.regs.c1 b l = 0 ∧ at2 n.regs.c0 b l = 0 ∧ at2 n.regs.acc b l = 0 ∧ at2 n.regs.acc2 b l = 0 ∧
      at2 n.regs.oacc b l = 0 ∧ at2 n.regs.pop b l = 0 ∧ at2 n.regs.tacc b l = 0 ∧ at1 n.regs.cb l = 0) ∧
    (∀ b o l, at3 n.regs.cw b o l = 0 ∧ at3 n.regs.cwi b o l = 0) ∧
    n.regs.mc = 0 ∧ n.regs.cyc = 0 ∧ n.dead = false ∧ n.err = 0 ∧
    ((ownsOf i).c1 = true → hasShape2 n.batch n.e n.regs.c1 = true) ∧
    ((ownsOf i).c0 = true → hasShape2 n.batch n.e n.regs.c0 = true) ∧
    ((ownsOf i).acc = true → hasShape2 n.batch n.o n.regs.acc = true) ∧
    ((ownsOf i).nonscaled = true →
      hasShape2 n.batch n.o n.regs.acc2 = true ∧ hasShape2 n.batch n.o n.regs.oacc = true) ∧
    ((ownsOf i).cw = true → hasShape3 n.batch n.o n.n n.regs.cw = true) ∧
    ((ownsOf i).cwi = true → hasShape3 n.batch n.o n.n n.regs.cwi = true) ∧
    ((ownsOf i).cb = true → n.regs.cb.length = n.o) ∧
    ((ownsOf i).ring = true → hasShape2 n.batch n.e n.regs.pop = true) ∧
    ((ownsOf i).tacc = true → hasShape2 n.batch n.e n.regs.tacc = true) ∧
    (i = .reluRC → ∀ b l, b < n.batch → l < n.e → at2 n.regs.racc b l = 2 ^ (n.depth - 1)) ∧
    (i = .reluSR → n.regs.first = true ∧
      ∀ b l, b < n.batch → l < n.e → at2 n.regs.ring b l = List.replicate n.depth false)

/-- R83, R191, R198: the ConfigurationError of a construction, in the order of the checks: reserved
descriptor, the two illegal rows, rounding, parameter range, RELU.SR depth, `more_res`. Only the first is
reported, and no instance is created. -/
def Obligations.ConfigurationErrorsInOrder : Prop :=
  ∀ (s : State) (c : Command), s.commands.head? = some c →
    let raises := fun cause =>
      exec .construct s = .next (afterAnswer s c (.failed (.configuration cause)))
    ((∀ i, decodeDesc c.desc ≠ .ok i) → raises .reserved) ∧
    ∀ i, decodeDesc c.desc = .ok i →
      (i = .mulIS → raises .inStreamMultiplication) ∧
      (i = .addGNSB → raises .gainesNonscaledBipolar) ∧
      (i ≠ .mulIS → i ≠ .addGNSB →
        (i.wellFormed = false → raises .invalidRounding) ∧
        (i.wellFormed = true → ¬ ParamsInRange i c.params → raises .parameterRange) ∧
        (i.wellFormed = true → ParamsInRange i c.params → i = .reluSR → 127 < c.params.depth →
          raises .reluSrDepth) ∧
        (i.wellFormed = true → ParamsInRange i c.params → MoreResInvalid i c.params → raises .invalidMoreRes))

/-- R192, R198: with no ConfigurationError, a supplied weight table that is not `O × N` raises
ShapeMismatchError(weight); else, with a bias lane, a supplied bias table not of length `O` raises
ShapeMismatchError(bias). The bit-serial variants check levels, the fast paths rational tensors. -/
def Obligations.ShapeMismatchWeightBeforeBias : Prop :=
  ∀ (s : State) (c : Command) (i : Instr), s.commands.head? = some c → decodeDesc c.desc = .ok i →
    i.wellFormed = true → ParamsInRange i c.params → ¬ MoreResInvalid i c.params →
    let o := c.params.o.toNat
    let n := c.params.n.toNat
    (∀ t, (readsOf i).mw = true → c.params.mw = some t → hasShape2 o n t = false →
      ∃ f, exec .construct s = .next (afterAnswer s c (.failed (.shapeMismatch .weight [o, n] f)))) ∧
    (∀ t, (readsOf i).w = true → c.params.w = some t → hasShape2 o n t = false →
      ∃ f, exec .construct s = .next (afterAnswer s c (.failed (.shapeMismatch .weight [o, n] f)))) ∧
    (∀ t u, (readsOf i).mb = true → c.params.mw = some t → hasShape2 o n t = true → c.params.mb = some u →
      u.length ≠ o →
      exec .construct s = .next (afterAnswer s c (.failed (.shapeMismatch .bias [o] [u.length])))) ∧
    (∀ t u, (readsOf i).c = true → c.params.w = some t → hasShape2 o n t = true → c.params.c = some u →
      u.length ≠ o →
      exec .construct s = .next (afterAnswer s c (.failed (.shapeMismatch .bias [o] [u.length]))))

/-- R86: "A parameter a row does not need is ignored": for every operation, two records that agree on the batch
size and on the parameters and tables the operation reads construct the same instance or fail the same way, and
CONSTRUCT with the one does what CONSTRUCT with the other does. For five operations the parameters read are written
out. -/
def Obligations.UnreadParametersAreIgnored : Prop :=
  (∀ (i : Instr) (p q : Params), AgreeOnReads i p q → build i p = build i q) ∧
  (∀ (i : Instr) (s : State) (c : Command) (q : Params), s.commands.head? = some c → decodeDesc c.desc = .ok i →
    AgreeOnReads i c.params q →
    exec .construct s = exec .construct { s with commands := { c with params := q } :: s.commands.tail }) ∧
  (∀ p q : Params, p.e = q.e → p.batch = q.batch → build .mulAND p = build .mulAND q) ∧
  (∀ p q : Params, p.n = q.n → p.o = q.o → p.batch = q.batch → build .addNSB p = build .addNSB q) ∧
  (∀ p q : Params, p.depth = q.depth → p.e = q.e → p.batch = q.batch → build .reluSR p = build .reluSR q) ∧
  (∀ p q : Params, p.bitwidth = q.bitwidth → p.e = q.e → p.batch = q.batch → build .reluTC p = build .reluTC q) ∧
  ∀ (p q : Params) (scaled : Bool), p.bitwidth = q.bitwidth → p.n = q.n → p.o = q.o → p.batch = q.batch →
    p.seq = q.seq → p.mw = q.mw → build (.linURC scaled false) p = build (.linURC scaled false) q

/-- R114: MUL.IS is selected by its row, never has an instance, and requesting it raises
ConfigurationError(in_stream_multiplication) whatever the parameters. -/
def Obligations.InStreamMultiplicationRaises : Prop :=
  SelectedBy .mulIS 0xFE00 0x1400 ∧
    (∀ p : Params, build .mulIS p = .failed (.configuration .inStreamMultiplication)) ∧
    ∀ (s : State) (c : Command), s.commands.head? = some c →
      exec .mulIS s = .next (afterAnswer s c (.failed (.configuration .inStreamMultiplication)))

/-- R129: ADD.GNSB is selected by its row, never has an instance, and requesting it raises
ConfigurationError(gaines_nonscaled_bipolar) whatever the parameters. -/
def Obligations.GainesNonscaledBipolarRaises : Prop :=
  SelectedBy .addGNSB 0xFF80 0x2300 ∧
    (∀ p : Params, build .addGNSB p = .failed (.configuration .gainesNonscaledBipolar)) ∧
    ∀ (s : State) (c : Command), s.commands.head? = some c →
      exec .addGNSB s = .next (afterAnswer s c (.failed (.configuration .gainesNonscaledBipolar)))

/-! ### REPLACE -/

/-- R183, R74: REPLACE of a table the live instance has, with the same shape and legal levels, changes that
table and nothing else: counters, accumulators and the HUB table keep their values. -/
def Obligations.ReplaceChangesOnlyTheTable : Prop :=
  ∀ (s : State) (c : Command) (n : Inst), s.commands.head? = some c → s.insts[c.inst]? = some n →
    n.dead = false →
    let done := fun n' => exec .replace s = .next
      { insts := s.insts.set c.inst n'
        commands := s.commands.tail
        reports := { code := c.code, inst := c.inst, response := .replaced } :: s.reports }
    let legal := fun v : Int => 0 ≤ v ∧ v ≤ (2 : Int) ^ n.bitwidth
    (∀ v, c.which = .levels → c.table = .ints1 v → (readsOf n.op).m = true → v.length = n.e →
      (∀ l ∈ v, legal l) → done { n with m := v }) ∧
    (∀ v, c.which = .weightLevels → c.table = .ints2 v → (readsOf n.op).mw = true → hasShape2 n.o n.n v = true →
      (∀ u ∈ v, ∀ l ∈ u, legal l) → done { n with mw := v }) ∧
    (∀ v, c.which = .biasLevels → c.table = .ints1 v → (readsOf n.op).mb = true → v.length = n.o →
      (∀ l ∈ v, legal l) → done { n with mb := v }) ∧
    (∀ v, c.which = .weights → c.table = .rats2 v → (readsOf n.op).w = true → hasShape2 n.o n.n v = true →
      done { n with w := v }) ∧
    (∀ v, c.which = .bias → c.table = .rats1 v → (readsOf n.op).c = true → v.length = n.o →
      done { n with c := v })

/-- R183, U8: REPLACE on a live instance of a table it does not have, with a table of another kind or shape than the
one it replaces, or with a level outside `[0, P]`, is refused and changes nothing: for each of `M`, `Mw`, `Mb` and
the rational weight and bias tensors of LIN.HUB and LIN.FXP. The form of a refusal (log 4), the order of the three
(log 10) and the selectors of the rational tensors (log 20) are the model's choices. -/
def Obligations.IllegalReplaceIsRefused : Prop :=
  ∀ (s : State) (c : Command) (n : Inst), s.commands.head? = some c → s.insts[c.inst]? = some n →
    n.dead = false →
    let refused := fun why => exec .replace s = .next (afterAnswer s c (.declined why))
    (hasTable n.op c.which = false → refused .noSuchTable) ∧
      (hasTable n.op c.which = true → ¬ n.TableFits c.which c.table → refused .tableShape) ∧
      (hasTable n.op c.which = true → n.TableFits c.which c.table →
        (∃ l ∈ c.table.levels, l < 0 ∨ (2 : Int) ^ n.bitwidth < l) → refused .levelRange)

/-! ### Generators and multipliers -/

/-- R101, R102: BSG.U and BSG.B compare the sequence element at the index, modulo `P`, with the level; they
have no register; `B ≤ 0` is a ConfigurationError. -/
def Obligations.GeneratorComparesSequenceWithLevel : Prop :=
  SelectedBy .bsgU 0xFF00 0x0000 ∧ SelectedBy .bsgB 0xFF00 0x0100 ∧
  ∀ i : Instr, (i = .bsgU ∨ i = .bsgB) →
    (∀ p : Params, p.bitwidth ≤ 0 → build i p = .failed (.configuration .parameterRange)) ∧
    ∀ (s : State) (c : Command) (n : Inst) (x : Inputs), Running s i c n x →
      ∃ y : List (List Bool), exec i s = .next (afterCycle s c n n.regs (.bits y)) ∧
        hasShape2 n.batch n.e y = true ∧
        ∀ b l, b < n.batch → l < n.e →
          at2 y b l = decide (at1 n.seq (x.index b l % 2 ^ n.bitwidth) < at1 n.m l)

/-- R110, R111: MUL.AND is the AND of its two inputs, MUL.XNOR is 1 iff they are equal; both without state. -/
def Obligations.GateMultipliersAreTheirGates : Prop :=
  SelectedBy .mulAND 0xFF00 0x1000 ∧ SelectedBy .mulXNOR 0xFF00 0x1100 ∧
  ∀ (i : Instr) (s : State) (c : Command) (n : Inst) (x : Inputs), (i = .mulAND ∨ i = .mulXNOR) → Running s i c n x →
    ∃ y : List (List Bool), exec i s = .next (afterCycle s c n n.regs (.bits y)) ∧
      hasShape2 n.batch n.e y = true ∧
      ∀ b l, b < n.batch → l < n.e →
        (i = .mulAND → at2 y b l = (x.left b l && x.right b l)) ∧
        (i = .mulXNOR → (at2 y b l = true ↔ x.left b l = x.right b l))

/-- R112: MUL.SU emits the live bit AND the generated bit; `c1` advances modulo `P` exactly when the live bit
is 1; every other register is unchanged. -/
def Obligations.StaticUnipolarMultiplierCycle : Prop :=
  SelectedBy .mulSU 0xFF00 0x1200 ∧
  (∀ p : Params, p.bitwidth ≤ 0 → build .mulSU p = .failed (.configuration .parameterRange)) ∧
  ∀ (s : State) (c : Command) (n : Inst) (x : Inputs), Running s .mulSU c n x →
    ∃ (y : List (List Bool)) (c1 : List (List Nat)),
      exec .mulSU s = .next (afterCycle s c n { n.regs with c1 := c1 } (.bits y)) ∧
      hasShape2 n.batch n.e y = true ∧ hasShape2 n.batch n.e c1 = true ∧
      ∀ b l, b < n.batch → l < n.e →
        at2 y b l = (x.bit b l && decide (at1 n.seq (at2 n.regs.c1 b l % 2 ^ n.bitwidth) < at1 n.m l)) ∧
        at2 c1 b l = (at2 n.regs.c1 b l + (if x.bit b l then 1 else 0)) % 2 ^ n.bitwidth

/-- R113: MUL.SB emits the generated bit of the first path when the live bit is 1 and the inverted generated
bit of the second when it is 0; exactly the active path's counter advances, modulo `P`; every other register
is unchanged. -/
def Obligations.StaticBipolarMultiplierCycle : Prop :=
  SelectedBy .mulSB 0xFF00 0x1300 ∧
  ∀ (s : State) (c : Command) (n : Inst) (x : Inputs), Running s .mulSB c n x →
    ∃ (y : List (List Bool)) (c1 c0 : List (List Nat)),
      exec .mulSB s = .next (afterCycle s c n { n.regs with c1 := c1, c0 := c0 } (.bits y)) ∧
      hasShape2 n.batch n.e y = true ∧ hasShape2 n.batch n.e c1 = true ∧ hasShape2 n.batch n.e c0 = true ∧
      ∀ b l, b < n.batch → l < n.e →
        at2 y b l = (if x.bit b l
          then decide (at1 n.seq (at2 n.regs.c1 b l % 2 ^ n.bitwidth) < at1 n.m l)
          else !decide (at1 n.seq0 (at2 n.regs.c0 b l % 2 ^ n.bitwidth) < at1 n.m l)) ∧
        at2 c1 b l = (at2 n.regs.c1 b l + (if x.bit b l then 1 else 0)) % 2 ^ n.bitwidth ∧
        at2 c0 b l = (at2 n.regs.c0 b l + (if x.bit b l then 0 else 1)) % 2 ^ n.bitwidth

/-! ### Adders -/

/-- R121: ADD.SC adds the lane count to the accumulator, emits 1 iff the sum reaches `bound = N`, and then
subtracts `bound`; every other register is unchanged. -/
def Obligations.ScaledAddCycle : Prop :=
  SelectedBy .addSC 0xFE80 0x2080 ∧
  ∀ (s : State) (c : Command) (n : Inst) (x : Inputs), Running s .addSC c n x →
    ∃ (y : List (List Bool)) (acc : List (List Nat)),
      exec .addSC s = .next (afterCycle s c n { n.regs with acc := acc } (.bits y)) ∧
      hasShape2 n.batch n.o y = true ∧ hasShape2 n.batch n.o acc = true ∧
      ∀ b o, b < n.batch → o < n.o →
        let a := at2 n.regs.acc b o + ((List.range n.n).map (fun i => (x.axis b i o).toNat)).sum
        at2 y b o = decide (n.n ≤ a) ∧ at2 acc b o = if n.n ≤ a then a - n.n else a

/-- R122, R123: the non-scaled adders add the lane count, less `offset` (0 for ADD.NSU, `(N−1)/2` for
ADD.NSB) once per cycle, emit 1 iff the new accumulator exceeds the out-accumulator, and count the emitted
bit; `acc2` is twice the accumulator (log 7); every other register is unchanged. -/
def Obligations.NonscaledAddCycle : Prop :=
  SelectedBy .addNSU 0xFF80 0x2000 ∧ SelectedBy .addNSB 0xFF80 0x2100 ∧
  ∀ (i : Instr) (offset2 : Int) (s : State) (c : Command) (n : Inst) (x : Inputs), Running s i c n x →
    (i = .addNSU ∧ offset2 = 0 ∨ i = .addNSB ∧ offset2 = (n.n : Int) - 1) →
    ∃ (y : List (List Bool)) (acc2 : List (List Int)) (oacc : List (List Nat)),
      exec i s = .next (afterCycle s c n { n.regs with acc2 := acc2, oacc := oacc } (.bits y)) ∧
      hasShape2 n.batch n.o y = true ∧ hasShape2 n.batch n.o acc2 = true ∧ hasShape2 n.batch n.o oacc = true ∧
      ∀ b o, b < n.batch → o < n.o →
        let a := at2 n.regs.acc2 b o + 2 * (((List.range n.n).map (fun i => (x.axis b i o).toNat)).sum : Nat) - offset2
        at2 acc2 b o = a ∧ at2 y b o = decide (2 * ((at2 n.regs.oacc b o : Nat) : Int) < a) ∧
        at2 oacc b o = at2 n.regs.oacc b o + (at2 y b o).toNat

/-- R127: with a legal index, ADD.GMUX emits the selected lane, the same for every output lane and batch
entry, and steps `mc` modulo the table length; every other register is unchanged. -/
def Obligations.MuxAddSelectsTheIndexedLane : Prop :=
  SelectedBy .addGMUX 0xFE80 0x2280 ∧
  ∀ (s : State) (c : Command) (n : Inst) (x : Inputs), Running s .addGMUX c n x →
    at1 n.muxSeq n.regs.mc < n.n →
    ∃ y : List (List Bool),
      exec .addGMUX s = .next
        (afterCycle s c n { n.regs with mc := (n.regs.mc + 1) % n.muxSeq.length } (.bits y)) ∧
      hasShape2 n.batch n.o y = true ∧
      ∀ b o, b < n.batch → o < n.o → at2 y b o = x.axis b (at1 n.muxSeq n.regs.mc) o

/-- R127, R193, R196: an index not below `N` raises PreconditionViolation with the index and `N`: no output,
`mc` and every other register and table keep their values, and the instance is dead with code 3. -/
def Obligations.IllegalMuxIndexKillsWithoutMutation : Prop :=
  ∀ (s : State) (c : Command) (n : Inst) (x : Inputs), Running s .addGMUX c n x →
    n.n ≤ at1 n.muxSeq n.regs.mc →
    exec .addGMUX s = .next
      { insts := s.insts.set c.inst { n with dead := true, err := 3 }
        commands := s.commands.tail
        reports := { code := c.code, inst := c.inst
                     response := .failed (.precondition (at1 n.muxSeq n.regs.mc) n.n) } :: s.reports }

/-- R128: ADD.GOR is 1 exactly when some lane is 1, without state. -/
def Obligations.OrAddIsOr : Prop :=
  SelectedBy .addGOR 0xFF80 0x2200 ∧
  ∀ (s : State) (c : Command) (n : Inst) (x : Inputs), Running s .addGOR c n x →
    ∃ y : List (List Bool), exec .addGOR s = .next (afterCycle s c n n.regs (.bits y)) ∧
      hasShape2 n.batch n.o y = true ∧
      ∀ b o, b < n.batch → o < n.o → (at2 y b o = true ↔ ∃ i, i < n.n ∧ x.axis b i o = true)

/-- R124: over any window from any accumulator below `bound`, the outputs times `bound` and the accumulator
change account for exactly the input bits, and the residue stays below `bound`. -/
def Obligations.ScaledAddConserves : Prop :=
  ∀ (bound acc : Nat) (counts : List Nat), acc < bound → (∀ k ∈ counts, k ≤ bound) →
    let run := scaledRun bound acc counts
    bound * run.1.count true + run.2 = acc + counts.sum ∧ run.2 < bound

/-- R25, R125: after `n` cycles from reset `2·acc` is twice the input ones less `n` times `2·offset`, and
`0 ≤ oacc ≤ n`; after a cycle with output 1 the new `oacc` is below `a' + 1`, after one with output 0 it is
at least `a'`. -/
def Obligations.OutAccumulatorFollowsTheAccumulator : Prop :=
  (∀ (offset2 : Int) (counts : List Nat),
    (nonscaledRun offset2 (0, 0) counts).1 = 2 * (counts.sum : Int) - counts.length * offset2 ∧
      (nonscaledRun offset2 (0, 0) counts).2 ≤ counts.length) ∧
  ∀ (offset2 acc2 : Int) (oacc k : Nat),
    (nonscaledOut offset2 acc2 oacc k = true →
      2 * (nonscaledOacc offset2 acc2 oacc k : Int) < nonscaledSum offset2 acc2 k + 2) ∧
    (nonscaledOut offset2 acc2 oacc k = false →
      nonscaledSum offset2 acc2 k ≤ 2 * (nonscaledOacc offset2 acc2 oacc k : Int))

/-! ### Linear layer, bit-serial -/

/-- R136 to R141: one cycle of LIN.U.RC and LIN.U.TC: the count of input bits that meet a generated weight
bit, and the bias bit with a bias lane, goes through the scaled or non-scaled stage with `bound = N + BIAS`;
the weight counters advance by the input bit (RC) or always (TC), the bias counter always; every other
register is unchanged. -/
def Obligations.UnipolarLinearCycle : Prop :=
  ∀ (temporal scaled bias : Bool) (s : State) (c : Command) (n : Inst) (x : Inputs),
    let i : Instr := if temporal then .linUTC scaled bias else .linURC scaled bias
    Running s i c n x →
    ∃ (y : List (List Bool)) (r : Regs),
      exec i s = .next (afterCycle s c n r (.bits y)) ∧
      r = { n.regs with cw := r.cw, cb := r.cb, acc := r.acc, acc2 := r.acc2, oacc := r.oacc } ∧
      hasShape2 n.batch n.o y = true ∧ hasShape3 n.batch n.o n.n r.cw = true ∧
      (bias = false → r.cb = n.regs.cb) ∧ (scaled = true → r.acc2 = n.regs.acc2 ∧ r.oacc = n.regs.oacc) ∧
      (scaled = false → r.acc = n.regs.acc) ∧
      (bias = true → ∀ o, o < n.o → at1 r.cb o = (at1 n.regs.cb o + 1) % 2 ^ n.bitwidth) ∧
      ∀ b o, b < n.batch → o < n.o →
        let wbit := fun k => decide (at1 n.seq (at3 n.regs.cw b o k % 2 ^ n.bitwidth) < at2 n.mw o k)
        let bbit := decide (at1 n.seqb (at1 n.regs.cb o % 2 ^ n.bitwidth) < at1 n.mb o)
        let count := ((List.range n.n).map (fun k => (x.bit b k && wbit k).toNat)).sum + (bias && bbit).toNat
        let bound := n.n + bias.toNat
        (∀ k, k < n.n → at3 r.cw b o k =
          (at3 n.regs.cw b o k + (if temporal || x.bit b k then 1 else 0)) % 2 ^ n.bitwidth) ∧
        (scaled = true → at2 y b o = decide (bound ≤ at2 n.regs.acc b o + count) ∧
          at2 r.acc b o + bound * (at2 y b o).toNat = at2 n.regs.acc b o + count) ∧
        (scaled = false → at2 r.acc2 b o = at2 n.regs.acc2 b o + 2 * (count : Int) ∧
          at2 y b o = decide (2 * ((at2 n.regs.oacc b o : Nat) : Int) < at2 r.acc2 b o) ∧
          at2 r.oacc b o = at2 n.regs.oacc b o + (at2 y b o).toNat)

/-- R136 to R139, R142, R143: one cycle of LIN.B.RC and LIN.B.TC: as the unipolar layer, with the second pass
of complemented inputs against inverted weight bits of their own counters, and with `offset = (bound − 1)/2`
subtracted once per cycle in the non-scaled form. -/
def Obligations.BipolarLinearCycle : Prop :=
  ∀ (temporal scaled bias : Bool) (s : State) (c : Command) (n : Inst) (x : Inputs),
    let i : Instr := if temporal then .linBTC scaled bias else .linBRC scaled bias
    Running s i c n x →
    ∃ (y : List (List Bool)) (r : Regs),
      exec i s = .next (afterCycle s c n r (.bits y)) ∧
      r = { n.regs with cw := r.cw, cwi := r.cwi, cb := r.cb, acc := r.acc, acc2 := r.acc2, oacc := r.oacc } ∧
      hasShape2 n.batch n.o y = true ∧ hasShape3 n.batch n.o n.n r.cw = true ∧
      hasShape3 n.batch n.o n.n r.cwi = true ∧
      (bias = false → r.cb = n.regs.cb) ∧ (scaled = true → r.acc2 = n.regs.acc2 ∧ r.oacc = n.regs.oacc) ∧
      (scaled = false → r.acc = n.regs.acc) ∧
      (bias = true → ∀ o, o < n.o → at1 r.cb o = (at1 n.regs.cb o + 1) % 2 ^ n.bitwidth) ∧
      ∀ b o, b < n.batch → o < n.o →
        let wbit := fun k => decide (at1 n.seq (at3 n.regs.cw b o k % 2 ^ n.bitwidth) < at2 n.mw o k)
        let winv := fun k => !decide (at1 n.seq0 (at3 n.regs.cwi b o k % 2 ^ n.bitwidth) < at2 n.mw o k)
        let bbit := decide (at1 n.seqb (at1 n.regs.cb o % 2 ^ n.bitwidth) < at1 n.mb o)
        let count := ((List.range n.n).map (fun k => if x.bit b k then (wbit k).toNat else (winv k).toNat)).sum +
          (bias && bbit).toNat
        let bound := n.n + bias.toNat
        (∀ k, k < n.n → at3 r.cw b o k =
            (at3 n.regs.cw b o k + (if temporal || x.bit b k then 1 else 0)) % 2 ^ n.bitwidth ∧
          at3 r.cwi b o k =
            (at3 n.regs.cwi b o k + (if temporal || !x.bit b k then 1 else 0)) % 2 ^ n.bitwidth) ∧
        (scaled = true → at2 y b o = decide (bound ≤ at2 n.regs.acc b o + count) ∧
          at2 r.acc b o + bound * (at2 y b o).toNat = at2 n.regs.acc b o + count) ∧
        (scaled = false → at2 r.acc2 b o = at2 n.regs.acc2 b o + 2 * (count : Int) - ((bound : Int) - 1) ∧
          at2 y b o = decide (2 * ((at2 n.regs.oacc b o : Nat) : Int) < at2 r.acc2 b o) ∧
          at2 r.oacc b o = at2 n.regs.oacc b o + (at2 y b o).toNat)

/-- R146: under the rate-coded policy a lane of the linear layer is a static multiplier: the unipolar lane is
MUL.SU on the weight counter, and the two passes of the bipolar lane are MUL.SB on its two counters; both
advance their counters alike. -/
def Obligations.LinearLaneIsAStaticMultiplier : Prop :=
  ∀ (bias : Bool) (n : Inst) (x : Inputs) (b o k : Nat), b < n.batch → o < n.o → k < n.n →
    (x.bit b k && weightBit n b o k) = suOut n.period n.seq (at2 n.mw o k) (at3 n.regs.cw b o k) (x.bit b k) ∧
    ((x.bit b k && weightBit n b o k) || (!x.bit b k && inverseBit n b o k)) =
      sbOut n.period n.seq n.seq0 (at2 n.mw o k) (at3 n.regs.cw b o k) (at3 n.regs.cwi b o k) (x.bit b k) ∧
    at3 (linCounters true false bias n x).cw b o k = advance n.period (at3 n.regs.cw b o k) (x.bit b k) ∧
    at3 (linCounters true false bias n x).cwi b o k = advance n.period (at3 n.regs.cwi b o k) (!x.bit b k)

/-- R147, R155: a fresh LIN.U.RC with one lane, no bias and scaled output, run for `P` cycles on an input with
`a` ones, emits `LUT[a][Mw]` ones, the entry of the HUB table built from the same sequence. -/
def Obligations.BitSerialCountAgreesWithHubTable : Prop :=
  ∀ (p : Params) (n : Inst) (w : Nat) (live : List Bool), build (.linURC true false) p = .made n →
    p.n = 1 → p.o = 1 → p.batch = 1 → n.mw = [[(w : Int)]] → live.length = n.period →
    ((streamOf (linBody false false true false) n (live.map (fun a => .lanes [[a]]))).count (.bits [[true]])) =
      at2 (hubTable n.period n.seq) (live.count true) w

/-! ### Linear layer, fast paths -/

/-- R152 to R154: a STEP of LIN.HUB quantises inputs and weights with the least shifts `sx`, `sw` that bring
them into `[−1, 1]`, sums the signed table entries, scales back by `2^(sx+sw)/P` and adds the bias; no
register is written. Requested with `RND = 3` it raises ConfigurationError(invalid_rounding). -/
def Obligations.HubStepLooksUpProducts : Prop :=
  SelectedBy (.linHUB false (.mode .floor)) 0xFE38 0x3208 ∧
  (∀ (bias : Bool) (s : State) (c : Command), s.commands.head? = some c →
    exec (.linHUB bias .reserved) s = .next (afterAnswer s c (.failed (.configuration .invalidRounding)))) ∧
  ∀ (m : Rounding) (bias : Bool) (s : State) (c : Command) (n : Inst) (x : Inputs) (sx sw : Int),
    n.Legal → Running s (.linHUB bias (.mode m)) c n x →
    IsShift ((tab2 n.batch n.n (fun b k => x.real b k)).flatten) sx → IsShift n.w.flatten sw →
    ∃ y : List (List Rat),
      exec (.linHUB bias (.mode m)) s = .next (afterCycle s c n n.regs (.reals y)) ∧
      hasShape2 n.batch n.o y = true ∧
      ∀ b o, b < n.batch → o < n.o →
        let level := fun (e : Int) (v : Rat) => (rnd m (|v| / (2 : Rat) ^ e * (2 : Rat) ^ n.bitwidth)).toNat
        let sign := fun v : Rat => if v < 0 then (-1 : Int) else 1
        let count : Int := ((List.range n.n).map (fun k =>
          sign (x.real b k) * sign (at2 n.w o k) *
            ((at2 n.lut (level sx (x.real b k)) (level sw (at2 n.w o k)) : Nat) : Int))).sum
        (∀ k, k < n.n → level sx (x.real b k) ≤ 2 ^ n.bitwidth ∧ level sw (at2 n.w o k) ≤ 2 ^ n.bitwidth) ∧
        at2 y b o = (count : Rat) * (2 : Rat) ^ (sx + sw) / (2 : Rat) ^ n.bitwidth + (if bias then at1 n.c o else 0)

/-- R151: `LUT[a][w]` counts the elements below `w` among the first `a` of the sequence, for `a, w ∈ [0, P]`;
it is 0 in row and column 0, `a` in column `P` and non-decreasing; row `P` is the identity for a
permutation. -/
def Obligations.HubTableCountsTheSequence : Prop :=
  ∀ (bitwidth : Nat) (seq : List Int), legalSequence (2 ^ bitwidth) seq = true →
    let t := hubTable (2 ^ bitwidth) seq
    (∀ a w, a ≤ 2 ^ bitwidth → w ≤ 2 ^ bitwidth →
      at2 t a w = ((seq.take a).filter (fun v => decide (v < (w : Int)))).length) ∧
    (∀ a, a ≤ 2 ^ bitwidth → at2 t a 0 = 0 ∧ at2 t 0 a = 0 ∧ at2 t a (2 ^ bitwidth) = a) ∧
    (∀ a w a' w', a ≤ a' → w ≤ w' → a' ≤ 2 ^ bitwidth → w' ≤ 2 ^ bitwidth → at2 t a w ≤ at2 t a' w') ∧
    (SeqIsPermutation (2 ^ bitwidth) seq → ∀ w, w ≤ 2 ^ bitwidth → at2 t (2 ^ bitwidth) w = w)

/-- R152: the dynamic shift is 0 for a tensor of zeros and else the least `e` with `2^e` at least every
magnitude. -/
def Obligations.DynamicShiftIsLeast : Prop :=
  ∀ v : List Rat, IsShift v (shiftOf v)

/-- R156 to R158: a STEP of LIN.FXP quantises inputs to `bi` and weights to `bw` fractional bits, sums the
exact integer products, divides by `2^(bi + bw)` and adds the bias; no register is written. Requested with
`RND = 3` it raises ConfigurationError(invalid_rounding). -/
def Obligations.FxpStepMultipliesQuantised : Prop :=
  SelectedBy (.linFXP true (.mode .round) .input .weight) 0xFE3F 0x3421 ∧
  (∀ (bias : Bool) (keep : KeepField) (more : MoreField) (s : State) (c : Command), s.commands.head? = some c →
    exec (.linFXP bias .reserved keep more) s = .next (afterAnswer s c (.failed (.configuration .invalidRounding)))) ∧
  ∀ (m : Rounding) (bias : Bool) (keep : KeepField) (more : MoreField) (s : State) (c : Command) (n : Inst)
    (x : Inputs),
    Running s (.linFXP bias (.mode m) keep more) c n x →
    ∃ y : List (List Rat),
      exec (.linFXP bias (.mode m) keep more) s = .next (afterCycle s c n n.regs (.reals y)) ∧
      hasShape2 n.batch n.o y = true ∧
      ∀ b o, b < n.batch → o < n.o →
        let total : Int := ((List.range n.n).map (fun k =>
          rnd m (x.real b k * (2 : Rat) ^ n.bi) * rnd m (at2 n.w o k * (2 : Rat) ^ n.bw))).sum
        at2 y b o = (total : Rat) / (2 : Rat) ^ (n.bi + n.bw) + (if bias then at1 n.c o else 0)

/-- R156: the bit budgets CONSTRUCT fixes: both `B` when the input's resolution is kept; otherwise they sum to
`B`, equal for even `B`, one more for the operand MORE names for odd `B`. -/
def Obligations.FxpBudgetsSplitTheWidth : Prop :=
  ∀ (b : Nat) (more : MoreField),
    fxpBudgets b .input more = some (b, b) ∧
    (b % 2 = 0 → ∃ h, fxpBudgets b .output more = some (h, h) ∧ h + h = b) ∧
    (b % 2 = 1 →
      (∃ h, fxpBudgets b .output .input = some (h + 1, h) ∧ fxpBudgets b .output .weight = some (h, h + 1) ∧
        h + 1 + h = b) ∧
      fxpBudgets b .output .code2 = none ∧ fxpBudgets b .output .code3 = none)

/-- R150: floor is the greatest integer not above, ceil the least not below, round the nearest with ties to
the even integer. -/
def Obligations.RoundingModesAreExact : Prop :=
  ∀ (q : Rat) (z : Int),
    ((rnd .floor q : Rat) ≤ q ∧ ((z : Rat) ≤ q → z ≤ rnd .floor q)) ∧
    (q ≤ (rnd .ceil q : Rat) ∧ (q ≤ (z : Rat) → rnd .ceil q ≤ z)) ∧
    |q - (rnd .round q : Rat)| ≤ |q - (z : Rat)| ∧
    (|q - (rnd .round q : Rat)| = 1 / 2 → rnd .round q % 2 = 0)

/-- R159: the error of one quantised product against the exact one is bounded by
`u·(|w|·2^−bi + |x|·2^−bw + u·2^−(bi+bw))`, with `u = 1/2` for round and `u = 1` for floor and ceil. -/
def Obligations.FxpProductErrorIsBounded : Prop :=
  ∀ (m : Rounding) (bi bw : Nat) (x w : Rat),
    let u := roundingUnit m
    |x * w - (fxpQuantise m bi x * fxpQuantise m bw w : Int) / (2 : Rat) ^ (bi + bw)| ≤
      u * (|w| / (2 : Rat) ^ bi + |x| / (2 : Rat) ^ bw + u / (2 : Rat) ^ (bi + bw))

/-- R160: the straight-through gradients are those of the plain matrix multiply `y[b][o] = Σ_i x[b][i]·w[o][i]`
plus a bias: for every change of input, weight and bias, the gradient's product with the change is the
upstream gradient's product with the change of the output. -/
def Obligations.GradientsAreThoseOfMatrixMultiply : Prop :=
  ∀ (batch n o : Nat) (g x w dx dw : List (List Rat)) (dc : List Rat),
    sumRat batch (fun b => sumRat n (fun i => at2 (gradInput batch n o g w) b i * at2 dx b i)) =
      sumRat batch (fun b => sumRat o (fun k => at2 g b k * sumRat n (fun i => at2 dx b i * at2 w k i))) ∧
    sumRat o (fun k => sumRat n (fun i => at2 (gradWeight batch n o g x) k i * at2 dw k i)) =
      sumRat batch (fun b => sumRat o (fun k => at2 g b k * sumRat n (fun i => at2 x b i * at2 dw k i))) ∧
    sumRat o (fun k => at1 (gradBias batch o g) k * at1 dc k) =
      sumRat batch (fun b => sumRat o (fun k => at2 g b k * at1 dc k))

/-! ### Generators over a period -/

/-- R104: `Gen` is periodic in the index with period `P`; over any `P` consecutive indices it emits as many ones
as the sequence has elements below the level, exactly the level for a permutation; it is monotone in the
level. -/
def Obligations.GeneratorDensityIsTheLevel : Prop :=
  ∀ (bitwidth : Nat) (seq : List Int) (m m' : Int) (k : Nat),
    legalSequence (2 ^ bitwidth) seq = true → 0 ≤ m → m ≤ (2 : Int) ^ bitwidth →
    let p := 2 ^ bitwidth
    let ones := ((List.range p).filter (fun j => gen p seq m (k + j))).length
    gen p seq m (k + p) = gen p seq m k ∧ ones = (seq.filter (fun v => decide (v < m))).length ∧
      (SeqIsPermutation p seq → (ones : Int) = m) ∧
      (m ≤ m' → gen p seq m k = true → gen p seq m' k = true)

/-- R112 (property): from reset, over a window whose live stream has at most `P` ones, a MUL.SU lane emits
`#(k < n : S[k] < M)` ones, wherever the ones are. -/
def Obligations.StaticMultiplierCountsIndependentOfPlace : Prop :=
  ∀ (bitwidth : Nat) (seq : List Int) (m : Int) (live : List Bool), live.count true ≤ 2 ^ bitwidth →
    (suStream (2 ^ bitwidth) seq m 0 live).count true =
      ((List.range (live.count true)).filter (fun k => decide (at1 seq k < m))).length

/-- R103, U1: the caller's level of a value in the coding range lies in `[0, P]`, at most half a level from the
scaled value; a value outside has no level. -/
def Obligations.LevelConversionIsNearest : Prop :=
  ∀ (bitwidth : Nat) (v : Rat),
    (0 ≤ v ∧ v ≤ 1 → ∃ l : Int, levelOf bitwidth false v = some l ∧ 0 ≤ l ∧ l ≤ (2 : Int) ^ bitwidth ∧
      |v * (2 : Rat) ^ bitwidth - l| ≤ 1 / 2) ∧
    (-1 ≤ v ∧ v ≤ 1 → ∃ l : Int, levelOf bitwidth true v = some l ∧ 0 ≤ l ∧ l ≤ (2 : Int) ^ bitwidth ∧
      |(v + 1) / 2 * (2 : Rat) ^ bitwidth - l| ≤ 1 / 2) ∧
    (v < 0 ∨ 1 < v → levelOf bitwidth false v = none) ∧ (v < -1 ∨ 1 < v → levelOf bitwidth true v = none)

/-! ### ReLU -/

/-- R166: RELU.RC emits the input OR'ed with "accumulator below HALF"; the accumulator moves by one with the
output bit, clamped to `[0, 2^DEPTH − 1]`; every other register is unchanged. -/
def Obligations.RateReluCycle : Prop :=
  SelectedBy .reluRC 0xFE00 0x4000 ∧
  (∀ p : Params, p.depth ≤ 0 → build .reluRC p = .failed (.configuration .parameterRange)) ∧
  ∀ (s : State) (c : Command) (n : Inst) (x : Inputs), Running s .reluRC c n x →
    ∃ (y : List (List Bool)) (racc : List (List Nat)),
      exec .reluRC s = .next (afterCycle s c n { n.regs with racc := racc } (.bits y)) ∧
      hasShape2 n.batch n.e y = true ∧ hasShape2 n.batch n.e racc = true ∧
      ∀ b l, b < n.batch → l < n.e →
        let a := at2 n.regs.racc b l
        at2 y b l = (x.bit b l || decide (a < 2 ^ (n.depth - 1))) ∧
        ((at2 racc b l : Nat) : Int) =
          max 0 (min ((2 : Int) ^ n.depth - 1) (a + (if at2 y b l then 1 else -1)))

/-- R167: while inputs are 1 the accumulator of RELU.RC never falls, and from the midpoint or above it stays
at or above it. -/
def Obligations.RateReluKeepsTheMidpointOnOnes : Prop :=
  ∀ (depth racc k : Nat), 1 ≤ depth → racc ≤ 2 ^ depth - 1 →
    racc ≤ rcRun depth racc (List.replicate k true) ∧
      (2 ^ (depth - 1) ≤ racc → 2 ^ (depth - 1) ≤ rcRun depth racc (List.replicate k true))

/-- R170, R28: RELU.SR emits 1 in its first cycle and then the input OR'ed with `2·pop < DEPTH`; the output is
pushed and the oldest bit evicted; the count follows and equals the number of 1s in the ring; `first` is
cleared; every other register is unchanged. -/
def Obligations.SmoothedReluCycle : Prop :=
  SelectedBy .reluSR 0xFE00 0x4200 ∧
  (∀ p : Params, p.depth ≤ 0 → build .reluSR p = .failed (.configuration .parameterRange)) ∧
  (∀ p : Params, 127 < p.depth → 1 ≤ p.e → 1 ≤ p.batch → build .reluSR p = .failed (.configuration .reluSrDepth)) ∧
  ∀ (s : State) (c : Command) (n : Inst) (x : Inputs), n.Legal → Running s .reluSR c n x →
    ∃ (y : List (List Bool)) (ring : List (List (List Bool))) (pop : List (List Nat)),
      exec .reluSR s = .next
        (afterCycle s c n { n.regs with ring := ring, pop := pop, first := false } (.bits y)) ∧
      hasShape2 n.batch n.e y = true ∧ hasShape2 n.batch n.e ring = true ∧ hasShape2 n.batch n.e pop = true ∧
      ∀ b l, b < n.batch → l < n.e →
        let old := at2 n.regs.ring b l
        at2 y b l = (n.regs.first || x.bit b l || decide (2 * at2 n.regs.pop b l < n.depth)) ∧
        at2 ring b l = old.drop 1 ++ [at2 y b l] ∧
        at2 pop b l + (at1 old 0).toNat = at2 n.regs.pop b l + (at2 y b l).toNat ∧
        at2 pop b l = (at2 ring b l).count true

/-- R174: RELU.TC with `T = 2^(B−1)` compares the counts that include this cycle: in the first half it emits
`c' ≥ a'`, in the second the input while `a' > T`; both counts are kept; every other register is
unchanged. -/
def Obligations.TemporalReluCycle : Prop :=
  SelectedBy .reluTC 0xFE00 0x4400 ∧
  (∀ p : Params, p.bitwidth ≤ 0 → build .reluTC p = .failed (.configuration .parameterRange)) ∧
  ∀ (s : State) (c : Command) (n : Inst) (x : Inputs), Running s .reluTC c n x →
    ∃ (y : List (List Bool)) (tacc : List (List Nat)),
      exec .reluTC s = .next
        (afterCycle s c n { n.regs with cyc := n.regs.cyc + 1, tacc := tacc } (.bits y)) ∧
      hasShape2 n.batch n.e y = true ∧ hasShape2 n.batch n.e tacc = true ∧
      ∀ b l, b < n.batch → l < n.e →
        let a := at2 n.regs.tacc b l + (x.bit b l).toNat
        at2 tacc b l = a ∧
        at2 y b l = (if 2 ^ (n.bitwidth - 1) < n.regs.cyc + 1 then x.bit b l && decide (2 ^ (n.bitwidth - 1) < a)
          else decide (a ≤ n.regs.cyc + 1))

/-- R174 (property): a thermometer input with `S` ones, run for `P` cycles from reset, comes out as a
thermometer with `max(S, T)` ones. -/
def Obligations.TemporalReluClampsThermometers : Prop :=
  ∀ (bitwidth ones : Nat), 1 ≤ bitwidth → ones ≤ 2 ^ bitwidth →
    let t := 2 ^ (bitwidth - 1)
    tcStream t 0 0 (List.replicate ones true ++ List.replicate (2 ^ bitwidth - ones) false) =
      List.replicate (max ones t) true ++ List.replicate (2 ^ bitwidth - max ones t) false
end

