-- ==== Sys2Proof/Laws/Construct.lean ====
section
/-! SUPPORT. What CONSTRUCT's checks come to, said once. -/

namespace Sys2Proof.Machine

/-- An instance is made exactly when no check fails, and it is the one the record describes. -/
theorem build_made_iff (i : Instr) (p : Params) (n : Inst) :
    build i p = .made n ↔
      configError i p = none ∧ shapeError i p = none ∧ constructRefusal i p = none ∧ n = makeInst i p := by
  unfold build
  split
  · simp_all
  · split
    · simp_all
    · split
      · simp_all
      · simp_all [eq_comm]

theorem firstError_eq_none {l : List (Option CoreError)} : firstError l = none ↔ ∀ e ∈ l, e = none := by
  induction l with
  | nil => simp [firstError]
  | cons a t ih => cases a <;> simp [firstError, ih]

/-- No error of the configuration: none of the five checks fails. -/
theorem configError_eq_none {i : Instr} {p : Params} :
    configError i p = none ↔
      illegalRow i = none ∧ badRounding i = false ∧ badParameter i p = false ∧ badDepth i p = false ∧
        badMoreRes i p = false := by
  unfold configError
  split
  · simp_all
  · split_ifs <;> simp_all

/-- No refusal of the construction: none of the four checks fails. -/
theorem constructRefusal_eq_none {i : Instr} {p : Params} :
    constructRefusal i p = none ↔
      missingTable i p = false ∧ badSequence i p = false ∧ badLevelLength i p = false ∧ badLevel i p = false := by
  unfold constructRefusal
  split_ifs <;> simp_all

end Sys2Proof.Machine
end

