-- ==== Sys2Proof/Laws/State.lean ====
section
/-! SUPPORT. One lemma per field per state update, true by unfolding. -/

namespace Sys2Proof.Machine

variable (s : State) (c : Command) (r : Response) (k : Nat) (n : Inst) (e : CoreError)

@[simp] theorem answer_insts : (answer s c r).insts = s.insts := rfl
@[simp] theorem answer_commands : (answer s c r).commands = s.commands.tail := rfl
@[simp] theorem answer_reports :
    (answer s c r).reports = { code := c.code, inst := c.inst, response := r } :: s.reports := rfl

@[simp] theorem setInst_insts : (setInst s k n).insts = s.insts.set k n := rfl
@[simp] theorem setInst_commands : (setInst s k n).commands = s.commands := rfl
@[simp] theorem setInst_reports : (setInst s k n).reports = s.reports := rfl

@[simp] theorem killed_op : (killed n e).op = n.op := rfl
@[simp] theorem killed_regs : (killed n e).regs = n.regs := rfl
@[simp] theorem killed_dead : (killed n e).dead = true := rfl
@[simp] theorem killed_err : (killed n e).err = errCode e := rfl
@[simp] theorem killed_batch : (killed n e).batch = n.batch := rfl

@[simp] theorem grow_op : (n.grow k).op = n.op := rfl
@[simp] theorem grow_batch : (n.grow k).batch = k := rfl
@[simp] theorem grow_regs : (n.grow k).regs = n.regs.grow k := rfl
@[simp] theorem grow_dead : (n.grow k).dead = n.dead := rfl
@[simp] theorem grow_err : (n.grow k).err = n.err := rfl
@[simp] theorem grow_bitwidth : (n.grow k).bitwidth = n.bitwidth := rfl
@[simp] theorem grow_depth : (n.grow k).depth = n.depth := rfl
@[simp] theorem grow_n : (n.grow k).n = n.n := rfl
@[simp] theorem grow_o : (n.grow k).o = n.o := rfl
@[simp] theorem grow_e : (n.grow k).e = n.e := rfl
@[simp] theorem grow_period : (n.grow k).period = n.period := rfl

variable (q : Regs)

@[simp] theorem regsGrow_c1 : (q.grow k).c1 = growBatch k q.c1 := rfl
@[simp] theorem regsGrow_c0 : (q.grow k).c0 = growBatch k q.c0 := rfl
@[simp] theorem regsGrow_acc : (q.grow k).acc = growBatch k q.acc := rfl
@[simp] theorem regsGrow_acc2 : (q.grow k).acc2 = growBatch k q.acc2 := rfl
@[simp] theorem regsGrow_oacc : (q.grow k).oacc = growBatch k q.oacc := rfl
@[simp] theorem regsGrow_mc : (q.grow k).mc = q.mc := rfl
@[simp] theorem regsGrow_cw : (q.grow k).cw = growBatch k q.cw := rfl
@[simp] theorem regsGrow_cwi : (q.grow k).cwi = growBatch k q.cwi := rfl
@[simp] theorem regsGrow_cb : (q.grow k).cb = q.cb := rfl
@[simp] theorem regsGrow_racc : (q.grow k).racc = growBatch k q.racc := rfl
@[simp] theorem regsGrow_ring : (q.grow k).ring = growBatch k q.ring := rfl
@[simp] theorem regsGrow_pop : (q.grow k).pop = growBatch k q.pop := rfl
@[simp] theorem regsGrow_first : (q.grow k).first = q.first := rfl
@[simp] theorem regsGrow_cyc : (q.grow k).cyc = q.cyc := rfl
@[simp] theorem regsGrow_tacc : (q.grow k).tacc = growBatch k q.tacc := rfl

end Sys2Proof.Machine
end

