-- ==== Sys2Proof/Laws/Tensor.lean ====
section
/-! SUPPORT. Reading a tensor that was built by index, its shape, and the one-time growth. -/

namespace Sys2Proof.Machine

variable {α : Type}

@[simp] theorem tab1_length (r : Nat) (f : Nat → α) : (tab1 r f).length = r := by simp [tab1]

theorem mem_tab1 {r : Nat} {f : Nat → α} {v : α} : v ∈ tab1 r f ↔ ∃ i, i < r ∧ f i = v := by simp [tab1]

@[simp] theorem hasShape1_iff (r : Nat) (t : List α) : hasShape1 r t = true ↔ t.length = r := by simp [hasShape1]

@[simp] theorem hasShape2_iff (r c : Nat) (t : List (List α)) :
    hasShape2 r c t = true ↔ t.length = r ∧ ∀ u ∈ t, u.length = c := by simp [hasShape2]

@[simp] theorem hasShape3_iff (r c d : Nat) (t : List (List (List α))) :
    hasShape3 r c d t = true ↔ t.length = r ∧ ∀ u ∈ t, u.length = c ∧ ∀ v ∈ u, v.length = d := by
  simp [hasShape3]

theorem hasShape2_tab2 (r c : Nat) (f : Nat → Nat → α) : hasShape2 r c (tab2 r c f) = true := by
  simp [tab2, mem_tab1]

theorem hasShape3_tab3 (r c d : Nat) (f : Nat → Nat → Nat → α) : hasShape3 r c d (tab3 r c d f) = true := by
  simp [tab3, tab2, mem_tab1]

/-- An absent tensor stays absent. -/
@[simp] theorem growBatch_nil (k : Nat) : growBatch k ([] : List α) = [] := rfl

theorem mem_growBatch {t : List α} {k : Nat} {u : α} (h : u ∈ growBatch k t) : u ∈ t := by
  match t, h with
  | r :: _, h => exact (List.eq_of_mem_replicate h) ▸ List.mem_cons_self

/-- A sum over lanes of bits is at most the number of lanes. -/
theorem sumNat_le (n : Nat) (f : Nat → Nat) (h : ∀ i, f i ≤ 1) : sumNat n f ≤ n := by
  induction n with
  | zero => simp [sumNat]
  | succ n ih =>
    simp only [sumNat, List.range_succ, List.map_append, List.sum_append] at ih ⊢
    have := h n
    simp
    omega

theorem sumNat_succ (n : Nat) (f : Nat → Nat) : sumNat (n + 1) f = sumNat n f + f n := by
  simp [sumNat, List.range_succ]

theorem sumNat_add (n : Nat) (f g : Nat → Nat) : sumNat n (fun i => f i + g i) = sumNat n f + sumNat n g := by
  induction n with
  | zero => rfl
  | succ n ih => simp only [sumNat_succ, ih]; omega

section

variable [Inhabited α]

@[simp] theorem at1_nil (i : Nat) : at1 ([] : List α) i = default := rfl

theorem at1_of_le {t : List α} {i : Nat} (h : t.length ≤ i) : at1 t i = default := by simp [at1, h]

theorem at1_tab1 {r i : Nat} (f : Nat → α) (h : i < r) : at1 (tab1 r f) i = f i := by simp [at1, tab1, h]

theorem at2_tab2 {r c i j : Nat} (f : Nat → Nat → α) (hi : i < r) (hj : j < c) : at2 (tab2 r c f) i j = f i j := by
  simp [at2, tab2, at1_tab1 _ hi, at1_tab1 _ hj]

theorem at3_tab3 {r c d i j k : Nat} (f : Nat → Nat → Nat → α) (hi : i < r) (hj : j < c) (hk : k < d) :
    at3 (tab3 r c d f) i j k = f i j k := by
  have : at1 (tab3 r c d f) i = tab2 c d (f i) := at1_tab1 _ hi
  simp only [at3, at2, this]
  exact at2_tab2 (f i) hj hk

/-- Growing a tensor that has exactly one batch entry copies that entry. -/
theorem growBatch_eq {t : List α} (k : Nat) (h : t.length = 1) : growBatch k t = List.replicate k (at1 t 0) := by
  match t, h with
  | [r], _ => rfl

theorem at1_growBatch {t : List α} {k b : Nat} (h : t.length = 1) (hb : b < k) : at1 (growBatch k t) b = at1 t 0 := by
  rw [growBatch_eq k h]
  simp [at1, hb]

/-- Growing copies entry 0 to every entry, of a tensor with one batch entry and, vacuously, of an absent one. -/
theorem at1_growBatch_zero {t : List α} {k b : Nat} (h : t = [] ∨ t.length = 1) (hb : b < k) :
    at1 (growBatch k t) b = at1 t 0 := by
  rcases h with rfl | h
  · rfl
  · exact at1_growBatch h hb

theorem at2_growBatch {t : List (List α)} {k b : Nat} (j : Nat) (h : t.length = 1) (hb : b < k) :
    at2 (growBatch k t) b j = at2 t 0 j := by
  unfold at2
  rw [at1_growBatch h hb]

theorem at3_growBatch {t : List (List (List α))} {k b : Nat} (i j : Nat) (h : t.length = 1) (hb : b < k) :
    at3 (growBatch k t) b i j = at3 t 0 i j := by
  unfold at3
  rw [at2_growBatch i h hb]

theorem growBatch_length {t : List α} (k : Nat) (h : t.length = 1) : (growBatch k t).length = k := by
  rw [growBatch_eq k h]; simp

end

end Sys2Proof.Machine
end

