-- ==== Sys2Proof/Laws/Ops.lean ====
section
/-! SUPPORT. What each shared operation can do, said once. -/

namespace Sys2Proof.Machine

theorem period_pos (b : Nat) : 0 < period b := Nat.two_pow_pos b

theorem advance_lt {p : Nat} (c : Nat) (e : Bool) (h : 0 < p) : advance p c e < p := Nat.mod_lt _ h

theorem bitNat_le_one (b : Bool) : bitNat b ≤ 1 := by cases b <;> decide

/-- A read of a sequence that honours the contract is in `[0, P)` (R60). -/
theorem seqRead_range {p : Nat} {s : List Int} (k : Nat) (hp : 0 < p) (h : legalSequence p s = true) :
    0 ≤ seqRead p s k ∧ seqRead p s k < (p : Int) := by
  simp only [legalSequence, Bool.and_eq_true, beq_iff_eq, List.all_eq_true, decide_eq_true_eq] at h
  have hk : k % p < s.length := by rw [h.1]; exact Nat.mod_lt k hp
  have : seqRead p s k = s[k % p] := by simp [seqRead, at1, hk]
  rw [this]
  exact h.2 _ (List.getElem_mem hk)

/-- What the scaled stage does to the accumulator: nothing is gained or lost. -/
theorem scaledNext_add (bound acc s : Nat) :
    scaledNext bound acc s + bound * bitNat (scaledOut bound acc s) = acc + s := by
  unfold scaledNext scaledOut bitNat
  by_cases h : acc + s ≥ bound <;> simp [h]

theorem scaledNext_lt {bound acc s : Nat} (ha : acc < bound) (hs : s ≤ bound) : scaledNext bound acc s < bound := by
  unfold scaledNext scaledOut bitNat
  by_cases h : acc + s ≥ bound <;> simp [h] <;> omega

/-- What raising an error does: the command is answered with the error, and at most the victim changes, which
is dead afterwards with the error's code. -/
theorem raiseError_next (s : State) (c : Command) (v : Option Nat) (e : CoreError) :
    ∃ l : List Inst, raiseError s c v e =
        .next { insts := l, commands := s.commands.tail,
                reports := { code := c.code, inst := c.inst, response := .failed e } :: s.reports } ∧
      (l = s.insts ∨ ∃ k n, v = some k ∧ s.insts[k]? = some n ∧ l = s.insts.set k (killed n e)) := by
  unfold raiseError
  split
  · exact ⟨_, rfl, .inl rfl⟩
  · split
    · exact ⟨_, rfl, .inl rfl⟩
    · rename_i n hn
      exact ⟨_, rfl, .inr ⟨_, n, rfl, hn, rfl⟩⟩

/-- What the shape check can do: leave the instance as it is, grow it once from batch size 1, or refuse. -/
theorem admit_cases (n : Inst) (x : Inputs) :
    (n.fits x = true ∧ n.admitted x = .ok n) ∨
      (n.fits x = false ∧ n.batch = 1 ∧ 1 < x.batch ∧ n.fitsAt x.batch x = true ∧ n.admitted x = .ok (n.grow x.batch)) ∨
      (n.fits x = false ∧ n.fitsAt x.batch x = true ∧ ¬(n.batch = 1 ∧ 1 < x.batch) ∧
        n.admitted x = .error .batchSize) ∨
      (n.fits x = false ∧ n.fitsAt x.batch x = false ∧ n.admitted x = .error .inputShape) := by
  unfold Inst.admitted
  by_cases h : n.fits x = true
  · exact .inl ⟨h, by simp [h]⟩
  · have h' : n.fits x = false := by simpa using h
    by_cases g : n.fitsAt x.batch x = true
    · by_cases b : n.batch = 1 ∧ x.batch > 1
      · exact .inr (.inl ⟨h', b.1, b.2, g, by simp [h', g, b]⟩)
      · exact .inr (.inr (.inl ⟨h', g, b, by simp only [h', g, b, if_true, if_false]; rfl⟩))
    · have g' : n.fitsAt x.batch x = false := by simpa using g
      exact .inr (.inr (.inr ⟨h', g', by simp [h', g']⟩))

/-- What one cycle can do, when a command is presented and the instance performs the operation. -/
theorem cycle_cases {i : Instr} {body : Inst → Inputs → CycleResult} {s : State} {c : Command}
    (hc : s.commands.head? = some c) :
    (s.insts[c.inst]? = none ∧ cycle i body s = decline s c .noInstance) ∨
      ∃ n, s.insts[c.inst]? = some n ∧
        ((n.dead = true ∧ cycle i body s = decline s c .deadInstance) ∨
         (n.dead = false ∧ n.op ≠ i ∧ cycle i body s = .fault .wrongOperation) ∨
         (n.dead = false ∧ n.op = i ∧ c.feed.resolve s.reports = none ∧
            cycle i body s = decline s c .noProducerOutput) ∨
         ∃ x, n.dead = false ∧ n.op = i ∧ c.feed.resolve s.reports = some x ∧
           ((∃ why, n.admitted x = .error why ∧ cycle i body s = decline s c why) ∨
            ∃ n', n.admitted x = .ok n' ∧
              ((∃ r y, body n' x = .commit r y ∧
                  cycle i body s = .next (answer (setInst s c.inst { n' with regs := r }) c (.stepped y))) ∨
               ∃ e, body n' x = .raise e ∧ cycle i body s = raiseError s c (some c.inst) e))) := by
  have hcs : ∃ rest, s.commands = c :: rest := by
    cases h : s.commands with
    | nil => simp [h] at hc
    | cons a t => simp [h] at hc; exact ⟨t, by rw [hc]⟩
  obtain ⟨rest, hcs⟩ := hcs
  cases hn : s.insts[c.inst]? with
  | none => exact .inl ⟨rfl, by simp [cycle, hcs, hn]⟩
  | some n =>
    refine .inr ⟨n, rfl, ?_⟩
    by_cases hd : n.dead = true
    · exact .inl ⟨hd, by simp [cycle, hcs, hn, Inst.isDead, hd]⟩
    have hd : n.dead = false := by simpa using hd
    by_cases ho : n.op = i
    · cases hx : c.feed.resolve s.reports with
      | none => exact .inr (.inr (.inl ⟨hd, ho, rfl, by simp [cycle, hcs, hn, Inst.isDead, hd, ho, hx]⟩))
      | some x =>
        refine .inr (.inr (.inr ⟨x, hd, ho, rfl, ?_⟩))
        cases ha : n.admitted x with
        | error why => exact .inl ⟨why, rfl, by simp [cycle, hcs, hn, Inst.isDead, hd, ho, hx, ha]⟩
        | ok n' =>
          refine .inr ⟨n', rfl, ?_⟩
          cases hb : body n' x with
          | commit r y => exact .inl ⟨r, y, rfl, by simp [cycle, hcs, hn, Inst.isDead, hd, ho, hx, ha, hb]⟩
          | raise e => exact .inr ⟨e, rfl, by simp [cycle, hcs, hn, Inst.isDead, hd, ho, hx, ha, hb]⟩
    · exact .inr (.inl ⟨hd, ho, by simp [cycle, hcs, hn, Inst.isDead, hd, ho]⟩)

/-- What REPLACE can do to an instance: exactly one level table or rational tensor is new, of the same shape
and, for levels, in range. -/
theorem replaceTable_cases {n n' : Inst} {which : Which} {t : Table} (h : replaceTable n which t = .ok n') :
    (∃ v, (readsOf n.op).m = true ∧ v.length = n.e ∧ v.all (legalLevel n.period) = true ∧ n' = { n with m := v }) ∨
    (∃ v, (readsOf n.op).mw = true ∧ hasShape2 n.o n.n v = true ∧
        v.all (fun u => u.all (legalLevel n.period)) = true ∧ n' = { n with mw := v }) ∨
    (∃ v, (readsOf n.op).mb = true ∧ v.length = n.o ∧ v.all (legalLevel n.period) = true ∧ n' = { n with mb := v }) ∨
    (∃ v, (readsOf n.op).w = true ∧ hasShape2 n.o n.n v = true ∧ n' = { n with w := v }) ∨
    (∃ v, (readsOf n.op).c = true ∧ v.length = n.o ∧ n' = { n with c := v }) := by
  unfold replaceTable at h
  cases which <;> cases t <;> simp only [Bool.not_eq_true'] at h <;> try cases h
  case levels.ints1 v =>
    split_ifs at h with h1 h2 h3
    cases h
    exact .inl ⟨v, by simpa using h1, by simpa using h2, by simpa using h3, rfl⟩
  case weightLevels.ints2 v =>
    split_ifs at h with h1 h2 h3
    cases h
    exact .inr (.inl ⟨v, by simpa using h1, by simpa using h2, by simpa using h3, rfl⟩)
  case biasLevels.ints1 v =>
    split_ifs at h with h1 h2 h3
    cases h
    exact .inr (.inr (.inl ⟨v, by simpa using h1, by simpa using h2, by simpa using h3, rfl⟩))
  case weights.rats2 v =>
    split_ifs at h with h1 h2
    cases h
    exact .inr (.inr (.inr (.inl ⟨v, by simpa using h1, by simpa using h2, rfl⟩)))
  case bias.rats1 v =>
    split_ifs at h with h1 h2
    cases h
    exact .inr (.inr (.inr (.inr ⟨v, by simpa using h1, by simpa using h2, rfl⟩)))

end Sys2Proof.Machine
end

