-- ==== Sys2Proof/Laws/Cycle.lean ====
section
/-! SUPPORT. What a cycle does when the instance runs it: the shared operation `cycle`, said once. -/

namespace Sys2Proof.Machine

/-- The instance that executes the STEP is the addressed one when the inputs have its shape. -/
theorem admitted_of_fits {n : Inst} {x : Inputs} (h : n.fits x = true) : n.admitted x = .ok n := by
  simp [Inst.admitted, h]

/-- A list with a first element is that element before the rest. -/
theorem commands_eq_cons {s : State} {c : Command} (h : s.commands.head? = some c) :
    s.commands = c :: s.commands.tail := by
  cases hs : s.commands with
  | nil => simp [hs] at h
  | cons a t => simp [hs] at h; simp [h]

/-- What a cycle comes to on an instance that runs it: its rule's result. -/
theorem cycle_of_running {s : State} {i : Instr} {c : Command} {n : Inst} {x : Inputs}
    (body : Inst → Inputs → CycleResult) (h : Running s i c n x) :
    cycle i body s =
      match body n x with
      | .commit r y => .next (afterCycle s c n r y)
      | .raise e => raiseError s c (some c.inst) e := by
  obtain ⟨hp, ha, hl, ho, hf, hx⟩ := h
  obtain ⟨rest, hc⟩ : ∃ rest, s.commands = c :: rest := ⟨_, commands_eq_cons hp⟩
  simp only [cycle, hc, ha, Inst.isDead, hl, ho, hf, admitted_of_fits hx]
  cases body n x <;> simp [afterCycle, answer, setInst, hc, hl, ho]

/-- A cycle whose rule commits. -/
theorem cycle_commit {s : State} {i : Instr} {c : Command} {n : Inst} {x : Inputs} {r : Regs} {y : Outputs}
    {body : Inst → Inputs → CycleResult} (h : Running s i c n x) (hb : body n x = .commit r y) :
    cycle i body s = .next (afterCycle s c n r y) := by
  rw [cycle_of_running body h, hb]

end Sys2Proof.Machine
end

