-- ==== Sys2Proof/Laws/PerInstr.lean ====
section
/-! SUPPORT. The family of per-instruction laws `IgnoredBitsZero`: the word written for an instruction is 0 in
every descriptor bit its row neither fixes nor reads (R84 (d), R88). -/

namespace Sys2Proof.Laws.IgnoredBitsZero

/-- No bit outside `usedBits` is set in the instruction's word. -/
def Statement (i : Instr) : Prop := ∀ d : Desc, encode i = .desc16 d → d &&& ~~~ usedBits i = 0

theorem bsgU : Statement .bsgU := by intro d h; cases h; decide
theorem bsgB : Statement .bsgB := by intro d h; cases h; decide
theorem mulAND : Statement .mulAND := by intro d h; cases h; decide
theorem mulXNOR : Statement .mulXNOR := by intro d h; cases h; decide
theorem mulSU : Statement .mulSU := by intro d h; cases h; decide
theorem mulSB : Statement .mulSB := by intro d h; cases h; decide
theorem mulIS : Statement .mulIS := by intro d h; cases h; decide
theorem addSC : Statement .addSC := by intro d h; cases h; decide
theorem addNSU : Statement .addNSU := by intro d h; cases h; decide
theorem addNSB : Statement .addNSB := by intro d h; cases h; decide
theorem addGMUX : Statement .addGMUX := by intro d h; cases h; decide
theorem addGOR : Statement .addGOR := by intro d h; cases h; decide
theorem addGNSB : Statement .addGNSB := by intro d h; cases h; decide
theorem linURC (scaled bias : Bool) : Statement (.linURC scaled bias) := by
  intro d h; cases h; cases scaled <;> cases bias <;> decide
theorem linUTC (scaled bias : Bool) : Statement (.linUTC scaled bias) := by
  intro d h; cases h; cases scaled <;> cases bias <;> decide
theorem linBRC (scaled bias : Bool) : Statement (.linBRC scaled bias) := by
  intro d h; cases h; cases scaled <;> cases bias <;> decide
theorem linBTC (scaled bias : Bool) : Statement (.linBTC scaled bias) := by
  intro d h; cases h; cases scaled <;> cases bias <;> decide
theorem linHUB (bias : Bool) (rnd : RndField) : Statement (.linHUB bias rnd) := by
  intro d h; cases h
  cases bias <;> cases rnd with
  | mode r => cases r <;> decide
  | reserved => decide
theorem linFXP (bias : Bool) (rnd : RndField) (keep : KeepField) (more : MoreField) :
    Statement (.linFXP bias rnd keep more) := by
  intro d h; cases h
  cases bias <;> cases keep <;> cases more <;> cases rnd with
  | mode r => cases r <;> decide
  | reserved => decide
theorem reluRC : Statement .reluRC := by intro d h; cases h; decide
theorem reluSR : Statement .reluSR := by intro d h; cases h; decide
theorem reluTC : Statement .reluTC := by intro d h; cases h; decide
theorem construct : Statement .construct := by intro d h; cases h
theorem step : Statement .step := by intro d h; cases h
theorem replace : Statement .replace := by intro d h; cases h
theorem cmdReserved : Statement .cmdReserved := by intro d h; cases h

end Sys2Proof.Laws.IgnoredBitsZero
end

