-- ==== Sys2Proof/Laws/Rounding.lean ====
section
/-! SUPPORT. The rational operations of the fast paths in Mathlib's words. -/

namespace Sys2Proof.Machine

theorem ratFloor_eq (q : Rat) : q.floor = ⌊q⌋ := rfl

theorem ratCeil_eq (q : Rat) : q.ceil = ⌈q⌉ := by rw [Rat.ceil_eq_neg_floor_neg]; rfl

theorem magnitude_eq_abs (q : Rat) : magnitude q = |q| := by
  unfold magnitude
  split_ifs with h
  · rw [abs_of_neg h]
  · rw [abs_of_nonneg (not_lt.1 h)]

theorem pow2_eq_zpow (e : Int) : pow2 e = (2 : Rat) ^ e := by
  cases e with
  | ofNat k => simp [pow2]
  | negSucc k => simp [pow2, zpow_negSucc]

theorem pow2_natCast (k : Nat) : pow2 (k : Int) = (2 : Rat) ^ k := by rw [pow2_eq_zpow, zpow_natCast]

end Sys2Proof.Machine
end

