-- ==== Sys2Proof/Tests/Slice0.lean ====
section
/-! SUPPORT. Tests of one step each, with results taken from the spec's worked examples and vectors, and a
witness for the hypotheses of every statement. -/

namespace Sys2Proof.Tests

open Sys2Proof Sys2Proof.Machine

set_option Elab.async false

/-! ### WellFormed: an ill-formed term for each check -/

theorem test_wf_hub_reserved_rounding : (Instr.linHUB false .reserved).wellFormed = false := by decide
theorem test_wf_fxp_reserved_rounding : (Instr.linFXP true .reserved .input .input).wellFormed = false := by decide
theorem test_wf_fxp_unexamined_more : (Instr.linFXP true (.mode .ceil) .input .code3).wellFormed = true := by decide

/-! ### Decode: words written out from the encoding tables (R81, R82, R85; V41), ignored bits set where the
row has any -/

theorem test_decode_bsgU : decodeDesc 0b0000_000_0_0_0_0_00_0_00 = .ok .bsgU := by decide
theorem test_decode_bsgU_ignored : decodeDesc 0x00FF = .ok .bsgU := by decide
theorem test_decode_bsgB : decodeDesc 0b0000_000_1_0_0_0_00_0_00 = .ok .bsgB := by decide
theorem test_decode_mulAND : decodeDesc 0b0001_000_0_0_0_0_00_0_00 = .ok .mulAND := by decide
theorem test_decode_mulXNOR : decodeDesc 0b0001_000_1_0_0_0_00_0_00 = .ok .mulXNOR := by decide
theorem test_decode_mulSU : decodeDesc 0b0001_001_0_1_1_1_11_1_11 = .ok .mulSU := by decide
theorem test_decode_mulSB : decodeDesc 0b0001_001_1_0_0_0_00_0_00 = .ok .mulSB := by decide
theorem test_decode_mulIS : decodeDesc 0x15FF = .ok .mulIS := by decide
theorem test_decode_addSC : decodeDesc 0x20FF = .ok .addSC := by decide
theorem test_decode_addSC_bipolar : decodeDesc 0b0010_000_1_1_1_1_11_1_11 = .ok .addSC := by decide
theorem test_decode_addNSU : decodeDesc 0b0010_000_0_0_0_0_00_0_00 = .ok .addNSU := by decide
theorem test_decode_addNSB : decodeDesc 0x217F = .ok .addNSB := by decide
theorem test_decode_addGMUX : decodeDesc 0b0010_001_0_1_0_0_00_0_00 = .ok .addGMUX := by decide
theorem test_decode_addGOR : decodeDesc 0b0010_001_0_0_0_0_00_0_00 = .ok .addGOR := by decide
theorem test_decode_addGNSB : decodeDesc 0x237F = .ok .addGNSB := by decide
theorem test_decode_linURC : decodeDesc 0x30A0 = .ok (.linURC true true) := by decide
theorem test_decode_linUTC : decodeDesc 0x30C0 = .ok (.linUTC true false) := by decide
theorem test_decode_linBRC : decodeDesc 0x31A0 = .ok (.linBRC true true) := by decide
theorem test_decode_linBTC : decodeDesc 0x3140 = .ok (.linBTC false false) := by decide
theorem test_decode_linHUB : decodeDesc 0x3230 = .ok (.linHUB true (.mode .ceil)) := by decide
theorem test_decode_linHUB_reserved : decodeDesc 0x3218 = .ok (.linHUB false .reserved) := by decide
theorem test_decode_linFXP : decodeDesc 0x3425 = .ok (.linFXP true (.mode .round) .output .weight) := by decide
theorem test_decode_linFXP_floor : decodeDesc 0x342D = .ok (.linFXP true (.mode .floor) .output .weight) := by decide
theorem test_decode_reluRC : decodeDesc 0b0100_000_0_0_0_0_00_0_00 = .ok .reluRC := by decide
theorem test_decode_reluSR : decodeDesc 0b0100_001_1_0_0_0_00_0_00 = .ok .reluSR := by decide
theorem test_decode_reluTC : decodeDesc 0x45FF = .ok .reluTC := by decide
theorem test_decode_commands : decodeCmd 0b00 = .construct ∧ decodeCmd 0b01 = .step ∧ decodeCmd 0b10 = .replace ∧
    decodeCmd 0b11 = .cmdReserved := by decide
theorem test_decode_reserved : decodeDesc 0x0200 = .error .reservedDescriptor ∧
    decodeDesc 0x1600 = .error .reservedDescriptor ∧ decodeDesc 0x2400 = .error .reservedDescriptor ∧
    decodeDesc 0x3600 = .error .reservedDescriptor ∧ decodeDesc 0x4600 = .error .reservedDescriptor ∧
    decodeDesc 0x5000 = .error .reservedDescriptor ∧ decodeDesc 0xFFFF = .error .reservedDescriptor := by decide
theorem test_table_words : decodeTableWord 16 0x1200 = some .mulSU ∧ decodeTableWord 8 2 = some .replace ∧
    decodeTableWord 16 0x5000 = none := by decide

/-! ### One step on a small state -/

/-- `S_LD` of the spec's vectors. -/
def sld : List Int := [0, 4, 2, 6, 1, 5, 3, 7]

/-- Parameters with `B = 3` and `Seq = S_LD`; sizes and tables as given. -/
def params3 (n o : Int) (m : List Int) (mw : List (List Int)) : Params :=
  { smallestParams with bitwidth := 3, n := n, o := o, seq := some sld, m := some m, mw := some mw, mb := some [2] }

/-- The instance of an operation with given registers. -/
def inst (i : Instr) (p : Params) (r : Regs → Regs) : Inst :=
  let n := makeInst i p
  { n with regs := r n.regs }

/-- A state with one instance and one STEP on it. -/
def stepState (n : Inst) (x : Inputs) : State :=
  { insts := [n], commands := [plainCommand 1 0 0 x], reports := [] }

/-- A state with one instance and one other command. -/
def cmdState (n : Inst) (c : Command) : State := { insts := [n], commands := [c], reports := [] }

/-- The answer of a step. -/
def answerOf (o : Host.Outcome State Fault Refusal) : Option Response :=
  match o with
  | .next t => t.reports.head?.map Report.response
  | _ => none

/-- A field of the first instance after a step. -/
def after {α : Type} (f : Inst → α) (o : Host.Outcome State Fault Refusal) : Option α :=
  match o with
  | .next t => t.insts.head?.map f
  | _ => none

/-- A STEP of the instance of an operation. -/
def run (i : Instr) (p : Params) (r : Regs → Regs) (x : Inputs) : Host.Outcome State Fault Refusal :=
  step (stepState (inst i p r) x)

/-- The same registers. -/
def asReset (r : Regs) : Regs := r

/-- R101 example: `M = 3`, `idx = 2`: `S[2] = 2 < 3`; V2: index `P + 3` reads `S[3] = 6`. -/
theorem test_bsgU : answerOf (run .bsgU { params3 1 1 [3, 3] [] with e := 2 } asReset (.indices [[2, 11]])) =
    some (.stepped (.bits [[true, false]])) := by decide +kernel

/-- R102 example: `M = 6`, `idx = 3`: `S[3] = 6`, not `< 6`. -/
theorem test_bsgB : answerOf (run .bsgB (params3 1 1 [6] []) asReset (.indices [[3]])) =
    some (.stepped (.bits [[false]])) := by decide +kernel

/-- V6, the truth table of MUL.AND. -/
theorem test_mulAND : answerOf (run .mulAND { smallestParams with e := 4 } asReset
    (.pairs [[false, false, true, true]] [[false, true, false, true]])) =
    some (.stepped (.bits [[false, false, false, true]])) := by decide +kernel

/-- V6, the truth table of MUL.XNOR. -/
theorem test_mulXNOR : answerOf (run .mulXNOR { smallestParams with e := 4 } asReset
    (.pairs [[false, false, true, true]] [[false, true, false, true]])) =
    some (.stepped (.bits [[true, false, false, true]])) := by decide +kernel

/-- R112 example: `M = 4`, `c1 = 2`, `a = 1`: out 1 and `c1` becomes 3. -/
theorem test_mulSU : answerOf (run .mulSU (params3 1 1 [4] []) ({ · with c1 := [[2]] }) (.lanes [[true]])) =
      some (.stepped (.bits [[true]])) ∧
    after (·.regs.c1) (run .mulSU (params3 1 1 [4] []) ({ · with c1 := [[2]] }) (.lanes [[true]])) = some [[3]] := by
  decide +kernel

/-- R112 corner cases: a live bit 0 holds the counter; a counter at `P − 1` wraps. -/
theorem test_mulSU_hold_and_wrap :
    after (·.regs.c1) (run .mulSU (params3 1 1 [4] []) ({ · with c1 := [[2]] }) (.lanes [[false]])) = some [[2]] ∧
    after (·.regs.c1) (run .mulSU (params3 1 1 [4] []) ({ · with c1 := [[7]] }) (.lanes [[true]])) = some [[0]] := by
  decide +kernel

/-- R113 example: `M = 6`, `c1 = c0 = 3`, `a = 0`: out 1, `c0` becomes 4, `c1` stays 3. -/
theorem test_mulSB : (fun o => (answerOf o, after (·.regs.c1) o, after (·.regs.c0) o))
      (run .mulSB (params3 1 1 [6] []) ({ · with c1 := [[3]], c0 := [[3]] }) (.lanes [[false]])) =
    (some (.stepped (.bits [[true]])), some [[3]], some [[4]]) := by decide +kernel

/-- V8, `t = 6`: `M = 6`, `c1 = 3`, `a = 1`: out 0 and `c1` becomes 4. -/
theorem test_mulSB_live : (fun o => (answerOf o, after (·.regs.c1) o, after (·.regs.c0) o))
      (run .mulSB (params3 1 1 [6] []) ({ · with c1 := [[3]], c0 := [[3]] }) (.lanes [[true]])) =
    (some (.stepped (.bits [[false]])), some [[4]], some [[3]]) := by decide +kernel

/-- V10: MUL.IS is a ConfigurationError and no instance exists. -/
theorem test_mulIS : (fun o => (answerOf o, after (·.op) o))
      (step { insts := [], commands := [plainCommand 0 0 0x1500 (.lanes [])], reports := [] }) =
    (some (.failed (.configuration .inStreamMultiplication)), none) := by decide +kernel

/-- S1: lanes `[1,0,1,1]`, accumulator 2, bound 4: output 1 and accumulator 1. -/
theorem test_addSC : (fun o => (answerOf o, after (·.regs.acc) o))
      (run .addSC (params3 4 1 [] []) ({ · with acc := [[2]] }) (.axes [[[true], [false], [true], [true]]])) =
    (some (.stepped (.bits [[true]])), some [[1]]) := by decide +kernel

/-- V12, `t = 5`: sum 2 of bound 4: output 0 and accumulator 2. -/
theorem test_addSC_below : (fun o => (answerOf o, after (·.regs.acc) o))
      (run .addSC (params3 4 1 [] []) ({ · with acc := [[1]] }) (.axes [[[false], [true], [false], [false]]])) =
    (some (.stepped (.bits [[false]])), some [[2]]) := by decide +kernel

/-- R122 example: `acc = 2`, `oacc = 1`, no input one: out 1 and `oacc` becomes 2 (`acc2` is `2·acc`). -/
theorem test_addNSU : (fun o => (answerOf o, after (·.regs.acc2) o, after (·.regs.oacc) o))
      (run .addNSU (params3 2 1 [] []) ({ · with acc2 := [[4]], oacc := [[1]] }) (.axes [[[false], [false]]])) =
    (some (.stepped (.bits [[true]])), some [[4]], some [[2]]) := by decide +kernel

/-- V13, `t = 3`: `3 > 3` is false: out 0. -/
theorem test_addNSU_strict : (fun o => (answerOf o, after (·.regs.oacc) o))
      (run .addNSU (params3 2 1 [] []) ({ · with acc2 := [[6]], oacc := [[3]] }) (.axes [[[false], [false]]])) =
    (some (.stepped (.bits [[false]])), some [[3]]) := by decide +kernel

/-- R123 example: offset 1/2, `acc = 3/2`, `oacc = 1`, `x = [1,0]`: out 1, `acc = 2`, `oacc = 2`. -/
theorem test_addNSB : (fun o => (answerOf o, after (·.regs.acc2) o, after (·.regs.oacc) o))
      (run .addNSB (params3 2 1 [] []) ({ · with acc2 := [[3]], oacc := [[1]] }) (.axes [[[true], [false]]])) =
    (some (.stepped (.bits [[true]])), some [[4]], some [[2]]) := by decide +kernel

/-- V16: all-zero input from reset: `acc = −1/2`, out 0. -/
theorem test_addNSB_negative : (fun o => (answerOf o, after (·.regs.acc2) o))
      (run .addNSB (params3 2 1 [] []) asReset (.axes [[[false], [false]]])) =
    (some (.stepped (.bits [[false]])), some [[-1]]) := by decide +kernel

/-- The parameters of V17 and V42. -/
def muxParams (n : Int) : Params := { smallestParams with n := n, muxSeq := some [0, 2, 1, 3] }

/-- R127 example: `mc = 1`, `x = [1,1,0,1]`: lane 2, out 0, `mc` becomes 2. -/
theorem test_addGMUX : (fun o => (answerOf o, after (·.regs.mc) o))
      (run .addGMUX (muxParams 4) ({ · with mc := 1 }) (.axes [[[true], [true], [false], [true]]])) =
    (some (.stepped (.bits [[false]])), some 2) := by decide +kernel

/-- V42, `t = 3`: index 3 with `N = 3`: PreconditionViolation, `mc` stays 3, `dead = 1`, `err = 3`. -/
theorem test_addGMUX_fault : (fun o => (answerOf o, after (·.regs.mc) o, after (·.dead) o, after (·.err) o))
      (run .addGMUX (muxParams 3) ({ · with mc := 3 }) (.axes [[[false], [false], [true]]])) =
    (some (.failed (.precondition 3 3)), some 3, some true, some 3) := by decide +kernel

/-- V18: OR of three lanes. -/
theorem test_addGOR : answerOf (run .addGOR { smallestParams with n := 3, o := 3 } asReset
      (.axes [[[false, false, true], [false, true, true], [false, false, true]]])) =
    some (.stepped (.bits [[false, true, true]])) := by decide +kernel

/-- V19: ADD.GNSB is a ConfigurationError. -/
theorem test_addGNSB : answerOf (step { insts := [], commands := [plainCommand 0 0 0x2300 (.lanes [])], reports := [] }) =
    some (.failed (.configuration .gainesNonscaledBipolar)) := by decide +kernel

/-- R140 example: `cw = [2,2]`, `acc = 1`, `x = [1,0]`: out 1, `acc = 0`, `cw = [3,2]`. -/
theorem test_linURC : (fun o => (answerOf o, after (·.regs.acc) o, after (·.regs.cw) o))
      (run (.linURC true false) (params3 2 1 [] [[4, 6]]) ({ · with cw := [[[2, 2]]], acc := [[1]] })
        (.lanes [[true, false]])) =
    (some (.stepped (.bits [[true]])), some [[0]], some [[[3, 2]]]) := by decide +kernel

/-- R141 example: `cw = [3,3]`, `acc = 0`, `x = [1,0]`: out 0, `acc = 0`, `cw = [4,4]`. -/
theorem test_linUTC : (fun o => (answerOf o, after (·.regs.acc) o, after (·.regs.cw) o))
      (run (.linUTC true false) (params3 2 1 [] [[4, 6]]) ({ · with cw := [[[3, 3]]], acc := [[0]] })
        (.lanes [[true, false]])) =
    (some (.stepped (.bits [[false]])), some [[0]], some [[[4, 4]]]) := by decide +kernel

/-- R142 example: bias lane, `cw = 4`, `cwi = 3`, `cb = 7`, `acc = 1`, `x = [0]`. -/
def outLinBRC : Host.Outcome State Fault Refusal :=
  run (.linBRC true true) (params3 1 1 [] [[6]])
    ({ · with cw := [[[4]]], cwi := [[[3]]], cb := [7], acc := [[1]] }) (.lanes [[false]])

/-- R142 example: out 1, `acc = 0`, `cw = 4`, `cwi = 4`, `cb = 0`. -/
theorem test_linBRC : answerOf outLinBRC = some (.stepped (.bits [[true]])) ∧
    after (·.regs.acc) outLinBRC = some [[0]] ∧ after (·.regs.cw) outLinBRC = some [[[4]]] ∧
    after (·.regs.cwi) outLinBRC = some [[[4]]] ∧ after (·.regs.cb) outLinBRC = some [0] := by decide +kernel

/-- R143 example: non-scaled, `cw = cwi = [2,2]`, `acc = oacc = 1`, `x = [0,0]`. -/
def outLinBTC : Host.Outcome State Fault Refusal :=
  run (.linBTC false false) (params3 2 1 [] [[6, 2]])
    ({ · with cw := [[[2, 2]]], cwi := [[[2, 2]]], acc2 := [[2]], oacc := [[1]] }) (.lanes [[false, false]])

/-- R143 example: out 1, `acc = 3/2`, `oacc = 2`, `cw = cwi = [3,3]`. -/
theorem test_linBTC : answerOf outLinBTC = some (.stepped (.bits [[true]])) ∧
    after (·.regs.acc2) outLinBTC = some [[3]] ∧ after (·.regs.oacc) outLinBTC = some [[2]] ∧
    after (·.regs.cw) outLinBTC = some [[[3, 3]]] ∧ after (·.regs.cwi) outLinBTC = some [[[3, 3]]] := by
  decide +kernel

/-- R154 example (V35): `y = 1/4`. -/
theorem test_linHUB : answerOf (run (.linHUB false (.mode .round))
      { params3 2 1 [] [] with w := some [[1 / 4, 3 / 8]] } asReset (.reals [[3 / 2, -1 / 4]])) =
    some (.stepped (.reals [[1 / 4]])) := by decide +kernel

/-- V37, floor with a bias: `y = 3/16`. -/
theorem test_linHUB_floor : answerOf (run (.linHUB true (.mode .floor))
      { params3 2 1 [] [] with w := some [[3 / 4, 1 / 3]], c := some [1 / 8] } asReset (.reals [[3 / 10, -1 / 2]])) =
    some (.stepped (.reals [[3 / 16]])) := by decide +kernel

/-- R158 example (V38, first row): `y = 13/64`. -/
theorem test_linFXP : answerOf (run (.linFXP true (.mode .round) .input .input)
      { params3 2 1 [] [] with bitwidth := 4, w := some [[3 / 4, 1 / 3]], c := some [1 / 8] } asReset
      (.reals [[3 / 10, -1 / 2]])) =
    some (.stepped (.reals [[13 / 64]])) := by decide +kernel

/-- V38, `B = 5 keep=output more=weight`, ceil: `y = 5/16`. -/
theorem test_linFXP_ceil : answerOf (run (.linFXP true (.mode .ceil) .output .weight)
      { params3 2 1 [] [] with bitwidth := 5, w := some [[3 / 4, 1 / 3]], c := some [1 / 8] } asReset
      (.reals [[3 / 10, -1 / 2]])) =
    some (.stepped (.reals [[5 / 16]])) := by decide +kernel

/-- R166 example: `DEPTH = 2`, `racc = 1`, `x = 0`: out 1 and `racc` becomes 2. -/
theorem test_reluRC : (fun o => (answerOf o, after (·.regs.racc) o))
      (run .reluRC { smallestParams with depth := 2 } ({ · with racc := [[1]] }) (.lanes [[false]])) =
    (some (.stepped (.bits [[true]])), some [[2]]) := by decide +kernel

/-- V27 and V26: saturation at `ACCMAX = 3`; at the midpoint the input 0 passes and `racc` falls. -/
theorem test_reluRC_ends : (fun o => (answerOf o, after (·.regs.racc) o))
      (run .reluRC { smallestParams with depth := 2, e := 2 } ({ · with racc := [[3, 2]] }) (.lanes [[true, false]])) =
    (some (.stepped (.bits [[true, false]])), some [[3, 1]]) := by decide +kernel

/-- R170 example (S3): the first cycle, from reset. -/
def outReluSR (x : Bool) : Host.Outcome State Fault Refusal :=
  run .reluSR { smallestParams with depth := 4 } asReset (.lanes [[x]])

/-- R170 example (S3): the first cycle outputs 1 whatever the input is. -/
theorem test_reluSR_first (x : Bool) : answerOf (outReluSR x) = some (.stepped (.bits [[true]])) ∧
    after (·.regs.ring) (outReluSR x) = some [[[false, false, false, true]]] ∧
    after (·.regs.pop) (outReluSR x) = some [[1]] ∧ after (·.regs.first) (outReluSR x) = some false := by
  revert x; decide +kernel

/-- V29, `t = 4`: ring `1100`, `pop = 2`, `x = 0`: out 0, ring `1000`, `pop = 1`. -/
theorem test_reluSR : (fun o => (answerOf o, after (·.regs.ring) o, after (·.regs.pop) o))
      (run .reluSR { smallestParams with depth := 4 }
        ({ · with ring := [[[true, true, false, false]]], pop := [[2]], first := false }) (.lanes [[false]])) =
    (some (.stepped (.bits [[false]])), some [[[true, false, false, false]]], some [[1]]) := by decide +kernel

/-- R174 example: `B = 3`, `cyc = 4`, `tacc = 4`, `x = 1`: out 1, `tacc = 5`, `cyc = 5`. -/
theorem test_reluTC : (fun o => (answerOf o, after (·.regs.tacc) o, after (·.regs.cyc) o))
      (run .reluTC { smallestParams with bitwidth := 3 } ({ · with cyc := 4, tacc := [[4]] }) (.lanes [[true]])) =
    (some (.stepped (.bits [[true]])), some [[5]], some 5) := by decide +kernel

/-- V33, cycle 4: `c' = 5 > 4` but `a' = 3 ≤ 4`: out 0. -/
theorem test_reluTC_below : answerOf (run .reluTC { smallestParams with bitwidth := 3 }
      ({ · with cyc := 4, tacc := [[2]] }) (.lanes [[true]])) = some (.stepped (.bits [[false]])) := by decide +kernel

/-- A CONSTRUCT of a descriptor with parameters, on a machine with no instance. -/
def construct (d : Desc) (p : Params) : Host.Outcome State Fault Refusal :=
  step { insts := [], commands := [{ plainCommand 0 0 d (.lanes []) with params := p }], reports := [] }

/-- V25: a weight table `1×3` where `1×2` is expected; with `B = 0` as well ConfigurationError comes first. -/
theorem test_construct_shape : answerOf (construct 0x3000 (params3 2 1 [] [[4, 6, 1]])) =
      some (.failed (.shapeMismatch .weight [1, 2] [1, 3])) ∧
    answerOf (construct 0x3000 { params3 2 1 [] [[4, 6, 1]] with bitwidth := 0 }) =
      some (.failed (.configuration .parameterRange)) := by decide +kernel

/-- V31, V40, V43: the depth limit, `more_res`, and a level above `P`. -/
theorem test_construct_errors :
    answerOf (construct 0x4200 { smallestParams with depth := 127 }) = some (.constructed 0) ∧
    answerOf (construct 0x4200 { smallestParams with depth := 128 }) = some (.failed (.configuration .reluSrDepth)) ∧
    answerOf (construct 0x3426 { smallestParams with bitwidth := 5 }) =
      some (.failed (.configuration .invalidMoreRes)) ∧
    answerOf (construct 0x0000 (params3 1 1 [9] [])) = some (.declined .levelRange) := by decide +kernel

/-- V43: a STEP with three batch entries on two is refused; with two on one it grows the instance once. -/
theorem test_step_batch :
    answerOf (run .mulSU { params3 1 1 [4] [] with batch := 2 } asReset (.lanes [[true], [true], [true]])) =
      some (.declined .batchSize) ∧
    after (·.regs.c1) (run .mulSU (params3 1 1 [4] []) asReset (.lanes [[true], [false]])) = some [[1], [0]] := by
  decide +kernel

/-- V42: a further STEP on a dead instance is refused and changes nothing. -/
theorem test_step_dead : (fun o => (answerOf o, after (·.regs.mc) o))
      (step (stepState { inst .addGMUX (muxParams 3) ({ · with mc := 3 }) with dead := true, err := 3 }
        (.axes [[[true], [true], [true]]]))) =
    (some (.declined .deadInstance), some 3) := by decide +kernel

/-- A REPLACE of a level table. -/
def replaceLevels (v : List Int) : Command :=
  { plainCommand 2 0 0 (.lanes []) with which := .levels, table := .ints1 v }

/-- V11, P5: a REPLACE leaves `c1` alone; a level `9 > P` is refused. -/
theorem test_replace :
    (fun o => (answerOf o, after (·.regs.c1) o, after (·.m) o))
      (step (cmdState (inst .mulSU (params3 1 1 [4] []) ({ · with c1 := [[3]] })) (replaceLevels [7]))) =
      (some .replaced, some [[3]], some [7]) ∧
    answerOf (step (cmdState (inst .mulSU (params3 1 1 [4] []) asReset) (replaceLevels [9]))) =
      some (.declined .levelRange) := by decide +kernel

/-- V43: command code `11` is refused. -/
theorem test_cmdReserved : answerOf (step (cmdState (inst .mulSU (params3 1 1 [4] []) asReset)
      (plainCommand 3 0 0 (.lanes [])))) = some (.declined .reservedCommand) := by decide +kernel

/-- V4: levels of values, with ties to even; V39: the rounding ties. -/
theorem test_levels : levelOf 3 true (1 / 2) = some 6 ∧ levelOf 3 true (-1) = some 0 ∧
    levelOf 3 true (1 / 16) = some 4 ∧ levelOf 3 false (1 / 16) = some 0 ∧ levelOf 3 false (3 / 16) = some 2 ∧
    ([1 / 2, 3 / 2, 5 / 2, -1 / 2, -3 / 2, -5 / 2].map (rnd .round)) = [0, 2, 2, 0, -2, -2] := by decide +kernel

/-- V34: two rows of the HUB table. -/
theorem test_hubTable : at1 (hubTable 8 sld) 5 = [0, 1, 2, 3, 3, 4, 4, 5, 5] ∧
    at1 (hubTable 8 sld) 8 = [0, 1, 2, 3, 4, 5, 6, 7, 8] := by decide +kernel

/-! ### Witnesses: for every statement with hypotheses, states and operands that meet them together, at boundary
values where a statement has clauses over a range -/

/-- The STEP command of `stepState`. -/
def stepCmd (x : Inputs) : Command := plainCommand 1 0 0 x

/-- MUL.SU, as CONSTRUCT makes it. -/
def nSU : Inst := makeInst .mulSU (params3 1 1 [4] [])
/-- ADD.GMUX with `N = 3`; its table holds an index 3. -/
def nMux : Inst := makeInst .addGMUX (muxParams 3)
/-- ADD.GMUX whose first index is illegal. -/
def nBadMux : Inst := makeInst .addGMUX { muxParams 3 with muxSeq := some [3] }
/-- The same, dead. -/
def nDeadMux : Inst := { nBadMux with dead := true, err := 3 }
/-- RELU.SR with `DEPTH = 4`. -/
def nSR : Inst := makeInst .reluSR { smallestParams with depth := 4 }
/-- LIN.HUB of V35. -/
def nHub : Inst := makeInst (.linHUB false (.mode .round)) { params3 2 1 [] [] with w := some [[1 / 4, 3 / 8]] }
/-- LIN.FXP. -/
def nFxp : Inst := makeInst (.linFXP true (.mode .ceil) .output .input) smallestParams

theorem legal_nSU : nSU.Legal := by
  constructor
  case regs => constructor <;> first | decide +kernel | (unfold Holds2; decide +kernel) | (unfold Holds3; decide +kernel)
  all_goals first | decide +kernel | (intros; contradiction)

theorem legal_nMux : nMux.Legal := by
  constructor
  case regs => constructor <;> first | decide +kernel | (unfold Holds2; decide +kernel) | (unfold Holds3; decide +kernel)
  all_goals first | decide +kernel | (intros; contradiction)

theorem legal_nBadMux : nBadMux.Legal := by
  constructor
  case regs => constructor <;> first | decide +kernel | (unfold Holds2; decide +kernel) | (unfold Holds3; decide +kernel)
  all_goals first | decide +kernel | (intros; contradiction)

theorem legal_nDeadMux : nDeadMux.Legal := by
  constructor
  case regs => constructor <;> first | decide +kernel | (unfold Holds2; decide +kernel) | (unfold Holds3; decide +kernel)
  all_goals first | decide +kernel | (intros; contradiction)

theorem legal_nSR : nSR.Legal := by
  constructor
  case regs => constructor <;> first | decide +kernel | (unfold Holds2; decide +kernel) | (unfold Holds3; decide +kernel)
  all_goals first | decide +kernel | (intros; contradiction)

theorem legal_nHub : nHub.Legal := by
  constructor
  case regs => constructor <;> first | decide +kernel | (unfold Holds2; decide +kernel) | (unfold Holds3; decide +kernel)
  all_goals first | decide +kernel | (intros; contradiction) | (intros; rfl)

/-- A state of two instances, all legal. -/
def twoState (cs : List Command) : State := { insts := [nSU, nMux], commands := cs, reports := [] }

theorem legal_twoState (cs : List Command) : (twoState cs).Legal := by
  intro n hn
  rcases List.mem_cons.1 hn with rfl | hn
  · exact legal_nSU
  · rcases List.mem_cons.1 hn with rfl | hn
    · exact legal_nMux
    · exact absurd hn List.not_mem_nil

/-- One lane, live bit 1. -/
def one : Inputs := .lanes [[true]]
/-- Three reduction lanes of one output. -/
def three : Inputs := .axes [[[true], [false], [false]]]

theorem witness_DecodeAndEncodeAgree : decodeDesc 0x30BF = .ok (.linURC true true) := by decide

theorem witness_StepRunsTheDecodedInstruction :
    (stepState nSU one).commands.head? = some (stepCmd one) ∧ (stepCmd one).code = 1 ∧
      (stepState nSU one).insts[(stepCmd one).inst]? = some nSU ∧ inputKind nSU.op ≠ .nothing ∧
      State.reset.commands = [] := ⟨rfl, rfl, rfl, by decide, rfl⟩

theorem witness_StepCommandCommitsACycle : nMux.Legal ∧
    Running (stepState nMux three) nMux.op (stepCmd three) nMux three ∧ nMux.op = .addGMUX ∧
      at1 nMux.muxSeq nMux.regs.mc < nMux.n :=
  ⟨legal_nMux, ⟨rfl, rfl, rfl, rfl, rfl, by decide +kernel⟩, rfl, by decide +kernel⟩

theorem witness_EveryCommandCompletes : (twoState [stepCmd one]).Legal := legal_twoState _

theorem witness_StepKeepsInstancesLegal : (twoState [stepCmd one]).Legal ∧
    ∃ t, step (twoState [stepCmd one]) = .next t ∧ t ≠ twoState [stepCmd one] :=
  ⟨legal_twoState _, _, rfl, by decide +kernel⟩

theorem witness_CommandTouchesOnlyTheAddressedInstance :
    (twoState [stepCmd one]).commands.head? = some (stepCmd one) ∧ (∃ t, step (twoState [stepCmd one]) = .next t) ∧
      1 < (twoState [stepCmd one]).insts.length ∧ 1 ≠ (stepCmd one).inst := ⟨rfl, ⟨_, rfl⟩, by decide, by decide⟩

theorem witness_CommandTouches_construct :
    (twoState [plainCommand 0 0 0x1200 one]).commands.head? = some (plainCommand 0 0 0x1200 one) ∧
      (∃ t, step (twoState [plainCommand 0 0 0x1200 one]) = .next t ∧ t.insts.length = 3) ∧
      (plainCommand 0 0 0x1200 one).code = 0 := ⟨rfl, ⟨_, rfl, by decide +kernel⟩, rfl⟩

theorem witness_CommandsToDifferentInstancesCommute : (twoState []).Legal ∧ (stepCmd one).code = 1 ∧
    (replaceLevels [0]).code = 2 ∧ (stepCmd one).inst ≠ ({ replaceLevels [0] with inst := 1 } : Command).inst ∧
    (stepCmd one).feed = .given one ∧ (replaceLevels [0]).feed = .given (.lanes []) :=
  ⟨legal_twoState _, rfl, rfl, by decide, rfl, rfl⟩

theorem witness_ConfigurationNeverChanges : (∃ t, step (twoState [stepCmd one]) = .next t) ∧
    (twoState [stepCmd one]).insts[0]? = some nSU := ⟨⟨_, rfl⟩, rfl⟩

theorem witness_OnlyAnIllegalMuxIndexKills_dies : (stepState nBadMux three).Legal ∧ nBadMux.dead = false ∧
    ∃ t, step (stepState nBadMux three) = .next t ∧ t.insts[0]? = some nDeadMux ∧ nDeadMux.dead = true :=
  ⟨by intro n hn; rw [List.mem_singleton.1 hn]; exact legal_nBadMux, rfl, _, rfl, by decide +kernel, rfl⟩

theorem witness_OnlyAnIllegalMuxIndexKills_dead : (stepState nDeadMux three).Legal ∧ nDeadMux.dead = true ∧
    ∃ t, step (stepState nDeadMux three) = .next t ∧ t.insts[0]? = some nDeadMux :=
  ⟨by intro n hn; rw [List.mem_singleton.1 hn]; exact legal_nDeadMux, rfl, _, rfl, by decide +kernel⟩

/-- MUL.SU with two batch entries. -/
def nSU2 : Inst := makeInst .mulSU { params3 1 1 [4] [] with batch := 2 }

/-- `nSU2` with three batch entries and other counters in entries 1 and 2. -/
def nSU3 : Inst :=
  { makeInst .mulSU { params3 1 1 [4] [] with batch := 3 } with regs := { nSU2.regs with c1 := [[0], [5], [7]] } }

theorem witness_BatchEntriesAreIndependent :
    Running (stepState nSU2 (.lanes [[true], [true]])) .mulSU (stepCmd (.lanes [[true], [true]])) nSU2
      (.lanes [[true], [true]]) ∧
    Running (stepState nSU3 (.lanes [[true], [false], [true]])) .mulSU (stepCmd (.lanes [[true], [false], [true]])) nSU3
      (.lanes [[true], [false], [true]]) ∧
    nSU2.AgreeAt nSU3 0 ∧ (Inputs.lanes [[true], [true]]).AgreeAt (.lanes [[true], [false], [true]]) 0 ∧
    0 < nSU2.batch ∧ 0 < nSU3.batch ∧
    (∃ r y, exec .mulSU (stepState nSU2 (.lanes [[true], [true]])) =
      .next (afterCycle (stepState nSU2 (.lanes [[true], [true]])) (stepCmd (.lanes [[true], [true]])) nSU2 r (.bits y))) ∧
    (∃ r y, exec .mulSU (stepState nSU3 (.lanes [[true], [false], [true]])) =
      .next (afterCycle (stepState nSU3 (.lanes [[true], [false], [true]])) (stepCmd (.lanes [[true], [false], [true]]))
        nSU3 r (.bits y))) :=
  ⟨⟨rfl, rfl, rfl, rfl, rfl, by decide +kernel⟩, ⟨rfl, rfl, rfl, rfl, rfl, by decide +kernel⟩,
    ⟨by decide +kernel, by decide +kernel, by unfold SameEntry; decide +kernel⟩,
    fun _ _ => ⟨rfl, rfl, rfl, rfl, rfl⟩, by decide +kernel, by decide +kernel, ⟨_, _, rfl⟩, ⟨_, _, rfl⟩⟩

theorem witness_BatchGrowthRunsTheExpandedInstance : nSU.Legal ∧
    (stepState nSU (.lanes [[true], [false]])).commands.head? = some (stepCmd (.lanes [[true], [false]])) ∧
    (stepState nSU (.lanes [[true], [false]])).insts[0]? = some nSU ∧ nSU.dead = false ∧ nSU.batch = 1 ∧
    1 < (Inputs.lanes [[true], [false]]).batch ∧ nSU.fitsAt 2 (.lanes [[true], [false]]) = true ∧ nSU.op ≠ .addGMUX :=
  ⟨legal_nSU, rfl, rfl, rfl, by decide, by decide, by decide +kernel, by decide⟩

theorem witness_BatchGrowth_mux : nMux.Legal ∧ nMux.dead = false ∧ nMux.batch = 1 ∧
    nMux.fitsAt 2 (.axes [[[true], [true], [true]], [[true], [true], [true]]]) = true ∧ nMux.op = .addGMUX ∧
    at1 nMux.muxSeq nMux.regs.mc < nMux.n :=
  ⟨legal_nMux, rfl, by decide, by decide +kernel, rfl, by decide +kernel⟩

theorem witness_UnfitInputsAreRefused : nSU.Legal ∧ nSU.dead = false ∧
    (stepState nSU three).commands.head? = some (stepCmd three) ∧ (stepState nSU three).insts[0]? = some nSU ∧
    nSU.fitsAt three.batch three = false ∧ nSU2.dead = false ∧
    nSU2.fitsAt one.batch one = true ∧ nSU2.fits one = false ∧ nSU2.batch ≠ 1 :=
  ⟨legal_nSU, rfl, rfl, rfl, by decide +kernel, rfl, by decide +kernel, by decide +kernel, by decide +kernel⟩

/-- The boundary of the second clause: 0 batch entries on an instance of batch size 1. -/
theorem witness_UnfitInputsAreRefused_empty : (Inputs.lanes []).batch = 0 ∧ nSU.batch = 1 ∧
    nSU.fitsAt (Inputs.lanes []).batch (.lanes []) = true ∧ nSU.fits (.lanes []) = false ∧
    ¬(nSU.batch = 1 ∧ 1 < (Inputs.lanes []).batch) ∧
    answerOf (step (stepState nSU (.lanes []))) = some (.declined .batchSize) := by decide +kernel

theorem legal_nSU2 : nSU2.Legal := by
  constructor
  case regs => constructor <;> first | decide +kernel | (unfold Holds2; decide +kernel) | (unfold Holds3; decide +kernel)
  all_goals first | decide +kernel | (intros; contradiction)

/-- A generator wired to a multiplier (the first two stages of P2). -/
def wiredState : State :=
  { insts := [nSU, nSU]
    commands := [stepCmd one, { plainCommand 1 1 0 one with feed := .lanesOf [0] }]
    reports := [] }

theorem witness_WiredStepUsesTheSameCycleOutput : wiredState.commands.head? = some (stepCmd one) ∧
    (stepCmd one).code = 1 ∧ ∃ t y c, step wiredState = .next t ∧
      t.reports.head? = some { code := 1, inst := 0, response := .stepped (.bits y) } ∧
      t.commands.head? = some c ∧ c.code = 1 ∧ c.feed = .lanesOf [0] :=
  ⟨rfl, rfl, _, _, _, rfl, rfl, rfl, rfl, rfl⟩

theorem witness_DeadOrUnknownInstanceIsRefused : (stepCmd one).code = 1 ∧ (replaceLevels [7]).code = 2 ∧
    State.reset.insts[(stepCmd one).inst]? = none ∧ (stepState nDeadMux three).insts[0]? = some nDeadMux ∧
    nDeadMux.dead = true ∧ nDeadMux.Legal := ⟨rfl, rfl, rfl, rfl, rfl, legal_nDeadMux⟩

theorem witness_ReservedCommandIsRefused :
    (cmdState nSU (plainCommand 3 0 0 one)).commands.head? = some (plainCommand 3 0 0 one) ∧
      (plainCommand 3 0 0 one).code = 3 := ⟨rfl, rfl⟩

/-- A CONSTRUCT command with parameters. -/
def conCmd (d : Desc) (p : Params) : Command := { plainCommand 0 0 d one with params := p }

theorem admissible_mulSU : Admissible .mulSU (params3 1 1 [8] []) :=
  { notInStream := by decide, notGaines := by decide, fields := by decide
    params := ⟨by decide, by decide, by decide⟩
    smoothDepth := by decide, moreRes := by rintro ⟨_, _, _, h, _⟩; cases h
    seq := fun _ => ⟨sld, rfl, by unfold SequenceLegal; decide +kernel⟩
    seq0 := fun h => absurd h (by decide), seqb := fun h => absurd h (by decide), mux := fun h => absurd h (by decide)
    m := fun _ => ⟨[8], rfl, by decide +kernel, by unfold LevelLegal; decide +kernel⟩
    mw := fun h => absurd h (by decide), mb := fun h => absurd h (by decide), w := fun h => absurd h (by decide)
    c := fun h => absurd h (by decide) }

theorem witness_ConstructCreatesExactlyAdmissibleInstances :
    (cmdState nSU (conCmd 0x1200 (params3 1 1 [8] []))).commands.head? = some (conCmd 0x1200 (params3 1 1 [8] [])) ∧
    decodeDesc (conCmd 0x1200 (params3 1 1 [8] [])).desc = .ok .mulSU ∧ Admissible .mulSU (params3 1 1 [8] []) ∧
    ¬ Admissible .mulSU (params3 1 1 [9] []) :=
  ⟨rfl, by decide, admissible_mulSU, fun h => by
    obtain ⟨t, ht, _, hl⟩ := h.m rfl
    cases ht
    exact absurd (hl 9 (by decide)).2 (by decide +kernel)⟩

theorem witness_ConstructedRegistersAreReset : build .reluRC { smallestParams with depth := 2 } =
      .made (makeInst .reluRC { smallestParams with depth := 2 }) ∧
    build .reluSR { smallestParams with depth := 4 } = .made nSR ∧
    0 < (makeInst .reluRC { smallestParams with depth := 2 }).batch ∧ 0 < nSR.e := by decide +kernel

theorem witness_ConfigurationErrorsInOrder_rows : (∀ i, decodeDesc 0x0200 ≠ .ok i) ∧
    decodeDesc 0x1400 = .ok .mulIS ∧ decodeDesc 0x2300 = .ok .addGNSB ∧
    decodeDesc 0x3418 = .ok (.linFXP false .reserved .input .input) ∧
    (Instr.linFXP false .reserved .input .input).wellFormed = false :=
  ⟨fun i h => (by
    rw [show decodeDesc 0x0200 = .error .reservedDescriptor by decide] at h
    cases h), by decide, by decide, by decide, by decide⟩

theorem witness_ConfigurationErrorsInOrder_parameters :
    ¬ ParamsInRange .reluSR { smallestParams with depth := 0 } ∧
    ParamsInRange .reluSR { smallestParams with depth := 128 } ∧ (127 : Int) < 128 ∧
    decodeDesc 0x3406 = .ok (.linFXP false (.mode .round) .output .code2) ∧
    ParamsInRange (.linFXP false (.mode .round) .output .code2) { smallestParams with bitwidth := 5 } ∧
    MoreResInvalid (.linFXP false (.mode .round) .output .code2) { smallestParams with bitwidth := 5 } :=
  ⟨fun h => absurd h.2.1 (by decide), ⟨by decide, by decide, by decide⟩, by decide, by decide,
    ⟨by decide, by decide, by decide, by decide⟩, _, _, _, rfl, by decide +kernel, .inl rfl⟩

theorem witness_ShapeMismatchWeightBeforeBias : decodeDesc 0x3020 = .ok (.linURC false true) ∧
    decodeDesc 0x3220 = .ok (.linHUB true (.mode .round)) ∧
    ParamsInRange (.linURC false true) (params3 2 1 [] [[4, 6]]) ∧
    ParamsInRange (.linHUB true (.mode .round)) (params3 2 1 [] [[4, 6]]) ∧
    (readsOf (.linURC false true)).mw = true ∧ hasShape2 1 2 [[(4 : Int), 6, 1]] = false ∧
    (readsOf (.linHUB true (.mode .round))).w = true ∧ hasShape2 1 2 [[(0 : Rat)]] = false ∧
    (readsOf (.linURC false true)).mb = true ∧ hasShape2 1 2 [[(4 : Int), 6]] = true ∧ [(2 : Int), 2].length ≠ 1 ∧
    (readsOf (.linHUB true (.mode .round))).c = true ∧ hasShape2 1 2 [[(0 : Rat), 0]] = true :=
  ⟨by decide, by decide, ⟨by decide, by decide, by decide, by decide⟩, ⟨by decide, by decide, by decide, by decide⟩,
    by decide, by decide, by decide, by decide +kernel, by decide, by decide, by decide, by decide, by decide +kernel⟩

theorem witness_ShapeMismatch_moreRes : ¬ MoreResInvalid (.linURC false true) (params3 2 1 [] [[4, 6]]) ∧
    ¬ MoreResInvalid (.linHUB true (.mode .round)) (params3 2 1 [] [[4, 6]]) :=
  ⟨(by rintro ⟨_, _, _, h, _⟩; cases h), (by rintro ⟨_, _, _, h, _⟩; cases h)⟩

theorem witness_UnreadParametersAreIgnored :
    (params3 1 1 [4] [] ≠ { params3 1 1 [4] [] with m := none, depth := 0 }) ∧
      (params3 1 1 [4] []).e = ({ params3 1 1 [4] [] with m := none, depth := 0 } : Params).e ∧
      (params3 1 1 [4] []).batch = ({ params3 1 1 [4] [] with m := none, depth := 0 } : Params).batch := by
  decide +kernel

/-- LIN.U.RC without bias reads neither DEPTH, E, the levels M nor the bias levels. -/
theorem witness_UnreadParametersAreIgnored_lin : decodeDesc (conCmd 0x3080 (params3 1 1 [] [[3]])).desc =
      .ok (.linURC true false) ∧
    AgreeOnReads (.linURC true false) (conCmd 0x3080 (params3 1 1 [] [[3]])).params
      { params3 1 1 [] [[3]] with depth := 0, e := 0, m := none, mb := none } :=
  ⟨by decide, by constructor <;> decide⟩

theorem witness_InStreamMultiplicationRaises :
    (cmdState nSU (conCmd 0x1400 smallestParams)).commands.head? = some (conCmd 0x1400 smallestParams) := rfl

theorem witness_GainesNonscaledBipolarRaises :
    (cmdState nSU (conCmd 0x2300 smallestParams)).commands.head? = some (conCmd 0x2300 smallestParams) := rfl

theorem witness_ReplaceChangesOnlyTheTable :
    (cmdState nSU (replaceLevels [8])).commands.head? = some (replaceLevels [8]) ∧
    (cmdState nSU (replaceLevels [8])).insts[0]? = some nSU ∧ nSU.dead = false ∧
    (readsOf nSU.op).m = true ∧ [(8 : Int)].length = nSU.e ∧ (8 : Int) ≤ 2 ^ nSU.bitwidth ∧
    (readsOf (.linURC true true)).mw = true ∧ (readsOf (.linURC true true)).mb = true ∧
    (readsOf nHub.op).w = true ∧ hasShape2 nHub.o nHub.n [[(1 : Rat), 1]] = true ∧ (readsOf nFxp.op).c = true ∧
    [(1 : Rat)].length = nFxp.o := by decide +kernel

theorem witness_IllegalReplaceIsRefused :
    (cmdState nSU (replaceLevels [9])).commands.head? = some (replaceLevels [9]) ∧
    (cmdState nSU (replaceLevels [9])).insts[0]? = some nSU ∧ nSU.dead = false ∧ nMux.dead = false ∧
    hasTable nMux.op .levels = false ∧ hasTable nSU.op .levels = true ∧ hasTable nSU.op .weights = false ∧
    (∃ l ∈ (Table.ints1 [9]).levels, l < 0 ∨ (2 : Int) ^ nSU.bitwidth < l) ∧
    ∃ l ∈ (Table.ints1 [-1]).levels, l < 0 ∨ (2 : Int) ^ nSU.bitwidth < l := by decide +kernel

theorem witness_IllegalReplaceIsRefused_fits : nSU.TableFits .levels (.ints1 [9]) ∧ ¬nSU.TableFits .levels (.ints1 []) ∧
    ¬nSU.TableFits .levels (.ints2 [[1]]) :=
  ⟨⟨_, rfl, rfl⟩, (by rintro ⟨_, h, h'⟩; cases h; revert h'; decide), (by rintro ⟨_, h, _⟩; cases h)⟩

/-- A bias level above `P`, a rational bias of another length, and a table of another kind, each refused. -/
theorem test_replace_refused :
    [replaceTable (makeInst (.linURC true true) (params3 1 1 [] [[3]])) .biasLevels (.ints1 [9]),
      replaceTable nFxp .bias (.rats1 []), replaceTable nFxp .weights (.ints2 [[1]])] =
    [.error .levelRange, .error .tableShape, .error .tableShape] := by decide +kernel

/-- Every operation runs on the instance the smallest record makes. -/
def smallRun (i : Instr) : State := stepState (makeInst i smallestParams) (zeroInputs i)

theorem witness_GeneratorComparesSequenceWithLevel : ({ smallestParams with bitwidth := 0 } : Params).bitwidth ≤ 0 ∧
    Running (smallRun .bsgU) .bsgU (stepCmd (zeroInputs .bsgU)) (makeInst .bsgU smallestParams) (zeroInputs .bsgU) ∧
    Running (smallRun .bsgB) .bsgB (stepCmd (zeroInputs .bsgB)) (makeInst .bsgB smallestParams) (zeroInputs .bsgB) :=
  ⟨by decide, ⟨rfl, rfl, rfl, rfl, rfl, by decide +kernel⟩, ⟨rfl, rfl, rfl, rfl, rfl, by decide +kernel⟩⟩

theorem witness_GateMultipliersAreTheirGates :
    Running (smallRun .mulAND) .mulAND (stepCmd (zeroInputs .mulAND)) (makeInst .mulAND smallestParams)
      (zeroInputs .mulAND) ∧
    Running (smallRun .mulXNOR) .mulXNOR (stepCmd (zeroInputs .mulXNOR)) (makeInst .mulXNOR smallestParams)
      (zeroInputs .mulXNOR) :=
  ⟨⟨rfl, rfl, rfl, rfl, rfl, by decide +kernel⟩, ⟨rfl, rfl, rfl, rfl, rfl, by decide +kernel⟩⟩

theorem witness_StaticUnipolarMultiplierCycle : Running (stepState nSU one) .mulSU (stepCmd one) nSU one :=
  ⟨rfl, rfl, rfl, rfl, rfl, by decide +kernel⟩

theorem witness_StaticBipolarMultiplierCycle : Running (smallRun .mulSB) .mulSB (stepCmd (zeroInputs .mulSB))
    (makeInst .mulSB smallestParams) (zeroInputs .mulSB) := ⟨rfl, rfl, rfl, rfl, rfl, by decide +kernel⟩

theorem witness_ScaledAddCycle : Running (smallRun .addSC) .addSC (stepCmd (zeroInputs .addSC))
    (makeInst .addSC smallestParams) (zeroInputs .addSC) := ⟨rfl, rfl, rfl, rfl, rfl, by decide +kernel⟩

theorem witness_NonscaledAddCycle :
    Running (smallRun .addNSU) .addNSU (stepCmd (zeroInputs .addNSU)) (makeInst .addNSU smallestParams)
      (zeroInputs .addNSU) ∧
    Running (smallRun .addNSB) .addNSB (stepCmd (zeroInputs .addNSB)) (makeInst .addNSB smallestParams)
      (zeroInputs .addNSB) ∧ (0 : Int) = ((makeInst .addNSB smallestParams).n : Int) - 1 :=
  ⟨⟨rfl, rfl, rfl, rfl, rfl, by decide +kernel⟩, ⟨rfl, rfl, rfl, rfl, rfl, by decide +kernel⟩, by decide +kernel⟩

theorem witness_MuxAddSelectsTheIndexedLane : Running (stepState nMux three) .addGMUX (stepCmd three) nMux three ∧
    at1 nMux.muxSeq nMux.regs.mc < nMux.n := ⟨⟨rfl, rfl, rfl, rfl, rfl, by decide +kernel⟩, by decide +kernel⟩

theorem witness_IllegalMuxIndexKillsWithoutMutation :
    Running (stepState nBadMux three) .addGMUX (stepCmd three) nBadMux three ∧
      nBadMux.n ≤ at1 nBadMux.muxSeq nBadMux.regs.mc :=
  ⟨⟨rfl, rfl, rfl, rfl, rfl, by decide +kernel⟩, by decide +kernel⟩

theorem witness_OrAddIsOr : Running (smallRun .addGOR) .addGOR (stepCmd (zeroInputs .addGOR))
    (makeInst .addGOR smallestParams) (zeroInputs .addGOR) := ⟨rfl, rfl, rfl, rfl, rfl, by decide +kernel⟩

theorem witness_ScaledAddConserves : (2 : Nat) < 4 ∧ ∀ k ∈ [3, 4, 0, 4, 4, 1], k ≤ 4 := by decide

theorem witness_OutAccumulatorFollowsTheAccumulator : nonscaledOut 1 0 0 2 = true ∧ nonscaledOut 1 0 0 0 = false := by
  decide

theorem witness_UnipolarLinearCycle :
    Running (smallRun (.linURC true true)) (.linURC true true) (stepCmd (zeroInputs (.linURC true true)))
      (makeInst (.linURC true true) smallestParams) (zeroInputs (.linURC true true)) ∧
    Running (smallRun (.linUTC false false)) (.linUTC false false) (stepCmd (zeroInputs (.linUTC false false)))
      (makeInst (.linUTC false false) smallestParams) (zeroInputs (.linUTC false false)) :=
  ⟨⟨rfl, rfl, rfl, rfl, rfl, by decide +kernel⟩, ⟨rfl, rfl, rfl, rfl, rfl, by decide +kernel⟩⟩

theorem witness_BipolarLinearCycle :
    Running (smallRun (.linBRC false true)) (.linBRC false true) (stepCmd (zeroInputs (.linBRC false true)))
      (makeInst (.linBRC false true) smallestParams) (zeroInputs (.linBRC false true)) ∧
    Running (smallRun (.linBTC true false)) (.linBTC true false) (stepCmd (zeroInputs (.linBTC true false)))
      (makeInst (.linBTC true false) smallestParams) (zeroInputs (.linBTC true false)) :=
  ⟨⟨rfl, rfl, rfl, rfl, rfl, by decide +kernel⟩, ⟨rfl, rfl, rfl, rfl, rfl, by decide +kernel⟩⟩

theorem witness_LinearLaneIsAStaticMultiplier : 0 < (makeInst (.linBRC true true) (params3 2 1 [] [[4, 6]])).batch ∧
    0 < (makeInst (.linBRC true true) (params3 2 1 [] [[4, 6]])).o ∧
    1 < (makeInst (.linBRC true true) (params3 2 1 [] [[4, 6]])).n := by decide +kernel

theorem witness_BitSerialCountAgreesWithHubTable :
    build (.linURC true false) (params3 1 1 [] [[4]]) = .made (makeInst (.linURC true false) (params3 1 1 [] [[4]])) ∧
    (params3 1 1 [] [[4]]).n = 1 ∧ (params3 1 1 [] [[4]]).o = 1 ∧ (params3 1 1 [] [[4]]).batch = 1 ∧
    (makeInst (.linURC true false) (params3 1 1 [] [[4]])).mw = [[((4 : Nat) : Int)]] ∧
    [true, true, true, true, true, true, false, false].length =
      (makeInst (.linURC true false) (params3 1 1 [] [[4]])).period := by decide +kernel

/-- The inputs of V35. -/
def x35 : Inputs := .reals [[3 / 2, -1 / 4]]

theorem shift35_input : IsShift ((tab2 nHub.batch nHub.n (fun b k => x35.real b k)).flatten) 1 := by
  have e : (tab2 nHub.batch nHub.n (fun b k => x35.real b k)).flatten = [3 / 2, -1 / 4] := by decide +kernel
  rw [e]
  refine .inr ⟨⟨3 / 2, by simp, by norm_num⟩, ?_, fun e' h => ?_⟩
  · intro q hq
    rcases List.mem_cons.1 hq with rfl | hq
    · norm_num [abs_of_pos]
    · rw [List.mem_singleton.1 hq]; norm_num [abs_of_neg]
  · have h1 := h (3 / 2) (by simp)
    by_contra hc
    have h2 : (2 : Rat) ^ e' ≤ 1 :=
      (zpow_le_zpow_right₀ (by norm_num) (show e' ≤ 0 by omega)).trans_eq (zpow_zero 2)
    norm_num [abs_of_pos] at h1
    linarith

theorem shift35_weight : IsShift nHub.w.flatten (-1) := by
  have e : nHub.w.flatten = [1 / 4, 3 / 8] := by decide +kernel
  rw [e]
  refine .inr ⟨⟨3 / 8, by simp, by norm_num⟩, ?_, fun e' h => ?_⟩
  · intro q hq
    rcases List.mem_cons.1 hq with rfl | hq
    · norm_num [abs_of_pos]
    · rw [List.mem_singleton.1 hq]; norm_num [abs_of_pos]
  · have h1 := h (3 / 8) (by simp)
    by_contra hc
    have h2 : (2 : Rat) ^ e' ≤ 2 ^ (-2 : Int) := zpow_le_zpow_right₀ (by norm_num) (by omega)
    norm_num [abs_of_pos] at h1 h2
    linarith

theorem witness_HubStepLooksUpProducts : nHub.Legal ∧
    Running (stepState nHub x35) (.linHUB false (.mode .round)) (stepCmd x35) nHub x35 ∧
    IsShift ((tab2 nHub.batch nHub.n (fun b k => x35.real b k)).flatten) 1 ∧ IsShift nHub.w.flatten (-1) :=
  ⟨legal_nHub, ⟨rfl, rfl, rfl, rfl, rfl, by decide +kernel⟩, shift35_input, shift35_weight⟩

theorem sld_permutation : SeqIsPermutation 8 sld := by unfold SeqIsPermutation; decide +kernel

theorem witness_HubTableCountsTheSequence : legalSequence (2 ^ 3) sld = true ∧ (8 : Nat) ≤ 2 ^ 3 ∧ (0 : Nat) ≤ 2 ^ 3 ∧
    SeqIsPermutation (2 ^ 3) sld := ⟨by decide +kernel, by decide, by decide, sld_permutation⟩

theorem witness_FxpStepMultipliesQuantised :
    Running (stepState nFxp (zeroInputs nFxp.op)) (.linFXP true (.mode .ceil) .output .input)
      (stepCmd (zeroInputs nFxp.op)) nFxp (zeroInputs nFxp.op) := ⟨rfl, rfl, rfl, rfl, rfl, by decide +kernel⟩

theorem witness_FxpBudgetsSplitTheWidth : 4 % 2 = 0 ∧ 5 % 2 = 1 := by decide

theorem witness_RoundingModesAreExact : (((2 : Int) : Rat) ≤ 5 / 2) ∧ (5 / 2 : Rat) ≤ ((3 : Int) : Rat) ∧
    |(5 / 2 : Rat) - (rnd .round (5 / 2) : Rat)| = 1 / 2 := by
  have : rnd .round (5 / 2) = 2 := by decide +kernel
  rw [this]; norm_num [abs_of_pos]

theorem witness_GeneratorDensityIsTheLevel : legalSequence (2 ^ 3) sld = true ∧ (0 : Int) ≤ 0 ∧ (8 : Int) ≤ 2 ^ 3 ∧
    SeqIsPermutation (2 ^ 3) sld ∧ (0 : Int) ≤ 8 ∧ gen (2 ^ 3) sld 8 0 = true :=
  ⟨by decide +kernel, by decide, by decide, sld_permutation, by decide, by decide +kernel⟩

theorem witness_StaticMultiplierCountsIndependentOfPlace : (List.replicate 8 true).count true ≤ 2 ^ 3 := by decide

theorem witness_LevelConversionIsNearest : ((0 : Rat) ≤ 1 ∧ (1 : Rat) ≤ 1) ∧ ((-1 : Rat) ≤ -1 ∧ (-1 : Rat) ≤ 1) ∧
    (-1 / 8 : Rat) < 0 ∧ (1 : Rat) < 9 / 8 ∧ (-9 / 8 : Rat) < -1 := by norm_num

theorem witness_RateReluCycle : ({ smallestParams with depth := 0 } : Params).depth ≤ 0 ∧
    Running (smallRun .reluRC) .reluRC (stepCmd (zeroInputs .reluRC)) (makeInst .reluRC smallestParams)
      (zeroInputs .reluRC) := ⟨by decide, rfl, rfl, rfl, rfl, rfl, by decide +kernel⟩

theorem witness_RateReluKeepsTheMidpointOnOnes : (1 ≤ 2) ∧ 3 ≤ 2 ^ 2 - 1 ∧ 2 ^ (2 - 1) ≤ 3 := by decide

theorem witness_SmoothedReluCycle : (127 : Int) < 128 ∧ nSR.Legal ∧
    Running (stepState nSR one) .reluSR (stepCmd one) nSR one :=
  ⟨by decide, legal_nSR, rfl, rfl, rfl, rfl, rfl, by decide +kernel⟩

theorem witness_TemporalReluCycle : ({ smallestParams with bitwidth := 0 } : Params).bitwidth ≤ 0 ∧
    Running (smallRun .reluTC) .reluTC (stepCmd (zeroInputs .reluTC)) (makeInst .reluTC smallestParams)
      (zeroInputs .reluTC) := ⟨by decide, rfl, rfl, rfl, rfl, rfl, by decide +kernel⟩

theorem witness_TemporalReluClampsThermometers : 1 ≤ 3 ∧ 0 ≤ 2 ^ 3 ∧ 8 ≤ 2 ^ 3 := by decide

end Sys2Proof.Tests
end

/-! PROOFS of the scope family (`spec/00_scope.md`): a batch entry depends on no other (R11). The rule of each
bit-serial operation is shown to take agreeing entries to agreeing entries; the rest is that `exec` of an
operation that ends in a committed cycle is that rule's result. -/

namespace Sys2Proof.Machine

/-! ### The rule an operation runs -/

/-- The rule `exec` runs for an operation, as a function of the executing unit and the inputs. The rows that cannot
be constructed (R84 (b), (c)) and the command codes have none. -/
def bodyOf : Instr → Option (Inst → Inputs → CycleResult)
  | .bsgU => some bsgBody
  | .bsgB => some bsgBody
  | .mulAND => some mulAndBody
  | .mulXNOR => some mulXnorBody
  | .mulSU => some mulSuBody
  | .mulSB => some mulSbBody
  | .addSC => some addScBody
  | .addNSU => some addNsuBody
  | .addNSB => some addNsbBody
  | .addGMUX => some addGmuxBody
  | .addGOR => some addGorBody
  | .linURC scaled bias => some (linBody false false scaled bias)
  | .linUTC scaled bias => some (linBody false true scaled bias)
  | .linBRC scaled bias => some (linBody true false scaled bias)
  | .linBTC scaled bias => some (linBody true true scaled bias)
  | .linHUB bias (.mode m) => some (hubBody m bias)
  | .linFXP bias (.mode m) _ _ => some (fxpBody m bias)
  | .reluRC => some reluRcBody
  | .reluSR => some reluSrBody
  | .reluTC => some reluTcBody
  | _ => none

theorem exec_eq_cycle {i : Instr} {body : Inst → Inputs → CycleResult} (h : bodyOf i = some body) (s : State) :
    exec i s = cycle i body s := by
  unfold bodyOf at h
  split at h <;> cases h <;> rfl

theorem inputKind_or_wellFormed_of_bodyOf_none {i : Instr} (h : bodyOf i = none) :
    inputKind i = .nothing ∨ i.wellFormed = false := by
  cases i with
  | linHUB _ rnd | linFXP _ rnd =>
    cases rnd with
    | mode m => cases h
    | reserved => exact .inr rfl
  | mulIS | addGNSB | construct | step | replace | cmdReserved => exact .inl rfl
  | _ => cases h

/-- R84 (c): the only ill-formed instructions are those with the reserved rounding code. -/
theorem exec_of_not_wellFormed {i : Instr} (h : i.wellFormed = false) (s : State) :
    exec i s = raiseConfiguration .invalidRounding s := by
  cases i with
  | linHUB _ rnd | linFXP _ rnd =>
    cases rnd with
    | mode m => cases h
    | reserved => rfl
  | _ => cases h

/-! ### A committed cycle is its rule's result -/

/-- An error is answered with `failed`, a committed cycle with `stepped`. -/
theorem raiseError_ne_afterCycle (s : State) (c : Command) (v : Option Nat) (e : CoreError) (n : Inst) (r : Regs)
    (y : Outputs) : raiseError s c v e ≠ .next (afterCycle s c n r y) := by
  obtain ⟨l, hl, -⟩ := raiseError_next s c v e
  rw [hl]
  simp [afterCycle]

theorem afterCycle_inj {s : State} {c : Command} {n : Inst} {r r' : Regs} {y y' : Outputs}
    (hn : s.insts[c.inst]? = some n) (h : afterCycle s c n r y = afterCycle s c n r' y') : r = r' ∧ y = y' := by
  obtain ⟨hlt, -⟩ := List.getElem?_eq_some_iff.1 hn
  have hinst := congrArg (fun t => t.insts[c.inst]?) h
  have hreports := congrArg State.reports h
  simp only [afterCycle, List.getElem?_set_self hlt] at hinst
  exact ⟨congrArg Inst.regs (Option.some.inj hinst),
    Response.stepped.inj (congrArg Report.response (List.cons.inj hreports).1)⟩

theorem Running.inputKind_ne_nothing {s : State} {i : Instr} {c : Command} {n : Inst} {x : Inputs}
    (h : Running s i c n x) : inputKind i ≠ .nothing := by
  intro hk
  have hf := h.fits
  rw [← h.performs] at hk
  simp [Inst.fits, Inst.fitsAt, hk] at hf

/-- What `exec` of a running operation can commit: only what the operation's rule commits. -/
theorem Running.body_of_committed {s : State} {i : Instr} {c : Command} {n : Inst} {x : Inputs} {r : Regs}
    {y : Outputs} (h : Running s i c n x) (he : exec i s = .next (afterCycle s c n r y)) :
    ∃ body, bodyOf i = some body ∧ body n x = .commit r y := by
  cases hbody : bodyOf i with
  | none =>
    rcases inputKind_or_wellFormed_of_bodyOf_none hbody with hk | hw
    · exact absurd hk h.inputKind_ne_nothing
    · rw [exec_of_not_wellFormed hw, raiseConfiguration, commands_eq_cons h.presented] at he
      exact (raiseError_ne_afterCycle _ _ _ _ _ _ _ he).elim
  | some body =>
    refine ⟨body, rfl, ?_⟩
    rw [exec_eq_cycle hbody, cycle_of_running body h] at he
    cases hres : body n x with
    | commit r₀ y₀ =>
      rw [hres] at he
      obtain ⟨rfl, rfl⟩ := afterCycle_inj h.addressed (Host.Outcome.next.inj he)
      rfl
    | raise e =>
      rw [hres] at he
      exact (raiseError_ne_afterCycle _ _ _ _ _ _ _ he).elim

/-! ### Agreement at a batch entry -/

/-- Two register files agree on entry `b` of every batch-indexed register and on the registers without a batch
index: what R11 lets entry `b` see of the registers. One field per register, so that an update is proved field
by field. -/
structure Regs.AgreeAt (r r' : Regs) (b : Nat) : Prop where
  c1 : at1 r.c1 b = at1 r'.c1 b
  c0 : at1 r.c0 b = at1 r'.c0 b
  acc : at1 r.acc b = at1 r'.acc b
  acc2 : at1 r.acc2 b = at1 r'.acc2 b
  oacc : at1 r.oacc b = at1 r'.oacc b
  cw : at1 r.cw b = at1 r'.cw b
  cwi : at1 r.cwi b = at1 r'.cwi b
  racc : at1 r.racc b = at1 r'.racc b
  ring : at1 r.ring b = at1 r'.ring b
  pop : at1 r.pop b = at1 r'.pop b
  tacc : at1 r.tacc b = at1 r'.tacc b
  mc : r.mc = r'.mc
  cb : r.cb = r'.cb
  first : r.first = r'.first
  cyc : r.cyc = r'.cyc

theorem Regs.AgreeAt.sameEntry {r r' : Regs} {b : Nat} (h : r.AgreeAt r' b) : SameEntry r b r' b :=
  ⟨h.c1, h.c0, h.acc, h.acc2, h.oacc, h.cw, h.cwi, h.racc, h.ring, h.pop, h.tacc⟩

/-- Agreeing units differ only in their batch sizes, their statuses, and in register files that agree. -/
theorem Inst.AgreeAt.exists_with {n n' : Inst} {b : Nat} (h : n.AgreeAt n' b) :
    n.regs.AgreeAt n'.regs b ∧
      ∃ k q d e, n' = { n with batch := k, regs := q, dead := d, err := e } := by
  obtain ⟨hconf, ⟨hmc, hcb, hfirst, hcyc⟩, hc1, hc0, hacc, hacc2, hoacc, hcw, hcwi, hracc, hring, hpop, htacc⟩ := h
  refine ⟨?_, _, _, _, _, hconf⟩
  constructor <;> symm <;> assumption

theorem Inst.AgreeAt.n_eq {n n' : Inst} {b : Nat} (h : n.AgreeAt n' b) : n.n = n'.n := by
  obtain ⟨-, k, q, d, e, rfl⟩ := h.exists_with
  rfl

theorem Inputs.AgreeAt.index {x x' : Inputs} {b : Nat} (h : x.AgreeAt x' b) (l : Nat) :
    x.index b l = x'.index b l := (h l 0).1

theorem Inputs.AgreeAt.left {x x' : Inputs} {b : Nat} (h : x.AgreeAt x' b) (l : Nat) :
    x.left b l = x'.left b l := (h l 0).2.1

theorem Inputs.AgreeAt.right {x x' : Inputs} {b : Nat} (h : x.AgreeAt x' b) (l : Nat) :
    x.right b l = x'.right b l := (h l 0).2.2.1

theorem Inputs.AgreeAt.bit {x x' : Inputs} {b : Nat} (h : x.AgreeAt x' b) (l : Nat) :
    x.bit b l = x'.bit b l := (h l 0).2.2.2.1

theorem Inputs.AgreeAt.axis {x x' : Inputs} {b : Nat} (h : x.AgreeAt x' b) (i o : Nat) :
    x.axis b i o = x'.axis b i o := (h i o).2.2.2.2

/-- Two results of a bit-serial rule agree at batch entry `b`: both commit agreeing registers and the same
output bits at `b`, or both raise the same error. -/
inductive CycleResult.AgreeAt (b : Nat) : CycleResult → CycleResult → Prop
  | commit {r r' : Regs} {y y' : List (List Bool)} (regs : r.AgreeAt r' b) (out : at1 y b = at1 y' b) :
      CycleResult.AgreeAt b (.commit r (.bits y)) (.commit r' (.bits y'))
  | raise (e : CoreError) : CycleResult.AgreeAt b (.raise e) (.raise e)

/-! ### Tensors of two batch sizes with the same entry -/

theorem at1_tab2_congr {α : Type} {k k' c b : Nat} {f g : Nat → Nat → α} (hk : b < k) (hk' : b < k')
    (h : ∀ l, f b l = g b l) : at1 (tab2 k c f) b = at1 (tab2 k' c g) b := by
  rw [tab2, tab2, at1_tab1 _ hk, at1_tab1 _ hk', funext h]

theorem at1_tab3_congr {α : Type} {k k' c d b : Nat} {f g : Nat → Nat → Nat → α} (hk : b < k) (hk' : b < k')
    (h : ∀ o i, f b o i = g b o i) : at1 (tab3 k c d f) b = at1 (tab3 k' c d g) b := by
  rw [tab3, tab3, at1_tab1 _ hk, at1_tab1 _ hk', funext fun o => funext (h o)]

/-! ### Each bit-serial rule keeps the agreement -/

section

variable {n n' : Inst} {x x' : Inputs} {b : Nat}

theorem bsgBody_agreeAt (hn : n.AgreeAt n' b) (hx : x.AgreeAt x' b) (hb : b < n.batch) (hb' : b < n'.batch) :
    CycleResult.AgreeAt b (bsgBody n x) (bsgBody n' x') := by
  obtain ⟨hr, k, q, d, e, rfl⟩ := hn.exists_with
  exact .commit hr (at1_tab2_congr hb hb' fun l => by simp only [hx.index, Inst.period])

theorem mulAndBody_agreeAt (hn : n.AgreeAt n' b) (hx : x.AgreeAt x' b) (hb : b < n.batch) (hb' : b < n'.batch) :
    CycleResult.AgreeAt b (mulAndBody n x) (mulAndBody n' x') := by
  obtain ⟨hr, k, q, d, e, rfl⟩ := hn.exists_with
  exact .commit hr (at1_tab2_congr hb hb' fun l => by rw [hx.left, hx.right])

theorem mulXnorBody_agreeAt (hn : n.AgreeAt n' b) (hx : x.AgreeAt x' b) (hb : b < n.batch) (hb' : b < n'.batch) :
    CycleResult.AgreeAt b (mulXnorBody n x) (mulXnorBody n' x') := by
  obtain ⟨hr, k, q, d, e, rfl⟩ := hn.exists_with
  exact .commit hr (at1_tab2_congr hb hb' fun l => by rw [hx.left, hx.right])

theorem mulSuBody_agreeAt (hn : n.AgreeAt n' b) (hx : x.AgreeAt x' b) (hb : b < n.batch) (hb' : b < n'.batch) :
    CycleResult.AgreeAt b (mulSuBody n x) (mulSuBody n' x') := by
  obtain ⟨hr, k, q, d, e, rfl⟩ := hn.exists_with
  refine .commit { hr with c1 := at1_tab2_congr hb hb' fun l => ?_ } (at1_tab2_congr hb hb' fun l => ?_)
  · simp only [at2, hr.c1, hx.bit, Inst.period]
  · simp only [at2, hr.c1, hx.bit, Inst.period]

theorem mulSbBody_agreeAt (hn : n.AgreeAt n' b) (hx : x.AgreeAt x' b) (hb : b < n.batch) (hb' : b < n'.batch) :
    CycleResult.AgreeAt b (mulSbBody n x) (mulSbBody n' x') := by
  obtain ⟨hr, k, q, d, e, rfl⟩ := hn.exists_with
  refine .commit
    { hr with
      c1 := at1_tab2_congr hb hb' fun l => ?_
      c0 := at1_tab2_congr hb hb' fun l => ?_ }
    (at1_tab2_congr hb hb' fun l => ?_)
  · simp only [at2, hr.c1, hx.bit, Inst.period]
  · simp only [at2, hr.c0, hx.bit, Inst.period]
  · simp only [at2, hr.c1, hr.c0, hx.bit, Inst.period]

/-- The scaled output stage, for counts that agree at the entry and for any registers `r` it writes into. -/
theorem scaledStage_agreeAt {count count' : Nat → Nat → Nat} {r r' : Regs} (bound : Nat) (hn : n.AgreeAt n' b)
    (hb : b < n.batch) (hb' : b < n'.batch) (hc : ∀ o, count b o = count' b o) (hr : r.AgreeAt r' b) :
    CycleResult.AgreeAt b (scaledStage n bound count r) (scaledStage n' bound count' r') := by
  obtain ⟨hq, k, q, d, e, rfl⟩ := hn.exists_with
  refine .commit { hr with acc := at1_tab2_congr hb hb' fun o => ?_ } (at1_tab2_congr hb hb' fun o => ?_)
  · simp only [at2, hq.acc, hc]
  · simp only [at2, hq.acc, hc]

/-- The non-scaled output stage, for counts that agree at the entry and for any registers `r` it writes into. -/
theorem nonscaledStage_agreeAt {count count' : Nat → Nat → Nat} {r r' : Regs} (offset2 : Int)
    (hn : n.AgreeAt n' b) (hb : b < n.batch) (hb' : b < n'.batch) (hc : ∀ o, count b o = count' b o)
    (hr : r.AgreeAt r' b) :
    CycleResult.AgreeAt b (nonscaledStage n offset2 count r) (nonscaledStage n' offset2 count' r') := by
  obtain ⟨hq, k, q, d, e, rfl⟩ := hn.exists_with
  refine .commit
    { hr with
      acc2 := at1_tab2_congr hb hb' fun o => ?_
      oacc := at1_tab2_congr hb hb' fun o => ?_ }
    (at1_tab2_congr hb hb' fun o => ?_)
  · simp only [at2, hq.acc2, hc]
  · simp only [at2, hq.acc2, hq.oacc, hc]
  · simp only [at2, hq.acc2, hq.oacc, hc]

theorem axisCount_congr (hn : n.n = n'.n) (hx : x.AgreeAt x' b) (o : Nat) :
    axisCount n x b o = axisCount n' x' b o := by
  simp only [axisCount, hn, hx.axis]

theorem addScBody_agreeAt (hn : n.AgreeAt n' b) (hx : x.AgreeAt x' b) (hb : b < n.batch) (hb' : b < n'.batch) :
    CycleResult.AgreeAt b (addScBody n x) (addScBody n' x') := by
  rw [addScBody, addScBody, hn.n_eq]
  exact scaledStage_agreeAt _ hn hb hb' (axisCount_congr hn.n_eq hx) hn.exists_with.1

theorem addNsuBody_agreeAt (hn : n.AgreeAt n' b) (hx : x.AgreeAt x' b) (hb : b < n.batch) (hb' : b < n'.batch) :
    CycleResult.AgreeAt b (addNsuBody n x) (addNsuBody n' x') := by
  rw [addNsuBody, addNsuBody, hn.n_eq]
  exact nonscaledStage_agreeAt _ hn hb hb' (axisCount_congr hn.n_eq hx) hn.exists_with.1

theorem addNsbBody_agreeAt (hn : n.AgreeAt n' b) (hx : x.AgreeAt x' b) (hb : b < n.batch) (hb' : b < n'.batch) :
    CycleResult.AgreeAt b (addNsbBody n x) (addNsbBody n' x') := by
  rw [addNsbBody, addNsbBody, hn.n_eq]
  exact nonscaledStage_agreeAt _ hn hb hb' (axisCount_congr hn.n_eq hx) hn.exists_with.1

/-- The index and the error depend on `mc`, the table and the axis only, which all entries share (R127). -/
theorem addGmuxBody_agreeAt (hn : n.AgreeAt n' b) (hx : x.AgreeAt x' b) (hb : b < n.batch) (hb' : b < n'.batch) :
    CycleResult.AgreeAt b (addGmuxBody n x) (addGmuxBody n' x') := by
  obtain ⟨hr, k, q, d, e, rfl⟩ := hn.exists_with
  have hmc : n.regs.mc = q.mc := hr.mc
  simp only [addGmuxBody, hmc]
  split_ifs with hj
  · exact .raise _
  · exact .commit { hr with mc := rfl } (at1_tab2_congr hb hb' fun o => hx.axis _ o)

theorem addGorBody_agreeAt (hn : n.AgreeAt n' b) (hx : x.AgreeAt x' b) (hb : b < n.batch) (hb' : b < n'.batch) :
    CycleResult.AgreeAt b (addGorBody n x) (addGorBody n' x') := by
  obtain ⟨hr, k, q, d, e, rfl⟩ := hn.exists_with
  exact .commit hr (at1_tab2_congr hb hb' fun o => by simp only [axisOr, hx.axis])

/-- The cycle's count of a linear layer: the bias counter is shared, the rest is the entry's own (R137). -/
theorem linCount_congr (bipolar bias : Bool) (hn : n.AgreeAt n' b) (hx : x.AgreeAt x' b) (o : Nat) :
    linCount bipolar bias n x b o = linCount bipolar bias n' x' b o := by
  obtain ⟨hr, k, q, d, e, rfl⟩ := hn.exists_with
  have hpos : posCount n x b o = posCount { n with batch := k, regs := q, dead := d, err := e } x' b o := by
    simp only [posCount, weightBit, at3, at2, hr.cw, hx.bit, Inst.period]
  have hneg : negCount n x b o = negCount { n with batch := k, regs := q, dead := d, err := e } x' b o := by
    simp only [negCount, inverseBit, at3, at2, hr.cwi, hx.bit, Inst.period]
  have hbias : biasBit n o = biasBit { n with batch := k, regs := q, dead := d, err := e } o := by
    simp only [biasBit, hr.cb, Inst.period]
  rw [linCount, linCount, hpos, hneg, hbias]

theorem linCounters_agreeAt (bipolar temporal bias : Bool) (hn : n.AgreeAt n' b) (hx : x.AgreeAt x' b)
    (hb : b < n.batch) (hb' : b < n'.batch) :
    (linCounters bipolar temporal bias n x).AgreeAt (linCounters bipolar temporal bias n' x') b := by
  obtain ⟨hr, k, q, d, e, rfl⟩ := hn.exists_with
  refine { hr with cw := at1_tab3_congr hb hb' fun o i => ?_, cwi := ?_, cb := ?_ }
  · simp only [at3, at2, hr.cw, hx.bit, Inst.period]
  · cases bipolar with
    | false => exact hr.cwi
    | true => exact at1_tab3_congr hb hb' fun o i => by simp only [at3, at2, hr.cwi, hx.bit, Inst.period]
  · simp only [linCounters, hr.cb, Inst.period]

theorem linBody_agreeAt (bipolar temporal scaled bias : Bool) (hn : n.AgreeAt n' b) (hx : x.AgreeAt x' b)
    (hb : b < n.batch) (hb' : b < n'.batch) :
    CycleResult.AgreeAt b (linBody bipolar temporal scaled bias n x)
      (linBody bipolar temporal scaled bias n' x') := by
  have hcount := linCount_congr bipolar bias hn hx
  have hcounters := linCounters_agreeAt bipolar temporal bias hn hx hb hb'
  rw [linBody, linBody, hn.n_eq]
  cases scaled with
  | true => exact scaledStage_agreeAt _ hn hb hb' hcount hcounters
  | false => exact nonscaledStage_agreeAt _ hn hb hb' hcount hcounters

theorem reluRcBody_agreeAt (hn : n.AgreeAt n' b) (hx : x.AgreeAt x' b) (hb : b < n.batch) (hb' : b < n'.batch) :
    CycleResult.AgreeAt b (reluRcBody n x) (reluRcBody n' x') := by
  obtain ⟨hr, k, q, d, e, rfl⟩ := hn.exists_with
  refine .commit { hr with racc := at1_tab2_congr hb hb' fun l => ?_ } (at1_tab2_congr hb hb' fun l => ?_)
  · simp only [at2, hr.racc, hx.bit]
  · simp only [at2, hr.racc, hx.bit]

theorem reluSrBody_agreeAt (hn : n.AgreeAt n' b) (hx : x.AgreeAt x' b) (hb : b < n.batch) (hb' : b < n'.batch) :
    CycleResult.AgreeAt b (reluSrBody n x) (reluSrBody n' x') := by
  obtain ⟨hr, k, q, d, e, rfl⟩ := hn.exists_with
  have hlane : ∀ l, srLane n x b l = srLane { n with batch := k, regs := q, dead := d, err := e } x' b l := by
    intro l
    simp only [srLane, at2, hr.first, hr.pop, hx.bit]
  refine .commit
    { hr with
      ring := at1_tab2_congr hb hb' fun l => ?_
      pop := at1_tab2_congr hb hb' fun l => ?_
      first := rfl }
    (at1_tab2_congr hb hb' hlane)
  · simp only [at2, hr.ring, hlane]
  · simp only [at2, hr.ring, hr.pop, hlane]

theorem reluTcBody_agreeAt (hn : n.AgreeAt n' b) (hx : x.AgreeAt x' b) (hb : b < n.batch) (hb' : b < n'.batch) :
    CycleResult.AgreeAt b (reluTcBody n x) (reluTcBody n' x') := by
  obtain ⟨hr, k, q, d, e, rfl⟩ := hn.exists_with
  refine .commit
    { hr with
      cyc := congrArg (· + 1) hr.cyc
      tacc := at1_tab2_congr hb hb' fun l => ?_ }
    (at1_tab2_congr hb hb' fun l => ?_)
  · simp only [at2, hr.tacc, hx.bit]
  · simp only [at2, hr.tacc, hr.cyc, hx.bit]

/-- R11 for the rule of every operation that returns bits. The fast paths return rationals, and LIN.HUB's dynamic
shift does read the whole input tensor (R152). -/
theorem bodyOf_agreeAt {i : Instr} {body : Inst → Inputs → CycleResult} (h : bodyOf i = some body)
    (hk : inputKind i ≠ .reals) (hn : n.AgreeAt n' b) (hx : x.AgreeAt x' b) (hb : b < n.batch)
    (hb' : b < n'.batch) : CycleResult.AgreeAt b (body n x) (body n' x') := by
  cases i with
  | bsgU | bsgB => cases h; exact bsgBody_agreeAt hn hx hb hb'
  | mulAND => cases h; exact mulAndBody_agreeAt hn hx hb hb'
  | mulXNOR => cases h; exact mulXnorBody_agreeAt hn hx hb hb'
  | mulSU => cases h; exact mulSuBody_agreeAt hn hx hb hb'
  | mulSB => cases h; exact mulSbBody_agreeAt hn hx hb hb'
  | addSC => cases h; exact addScBody_agreeAt hn hx hb hb'
  | addNSU => cases h; exact addNsuBody_agreeAt hn hx hb hb'
  | addNSB => cases h; exact addNsbBody_agreeAt hn hx hb hb'
  | addGMUX => cases h; exact addGmuxBody_agreeAt hn hx hb hb'
  | addGOR => cases h; exact addGorBody_agreeAt hn hx hb hb'
  | linURC | linUTC | linBRC | linBTC => cases h; exact linBody_agreeAt _ _ _ _ hn hx hb hb'
  | linHUB | linFXP => exact absurd rfl hk
  | reluRC => cases h; exact reluRcBody_agreeAt hn hx hb hb'
  | reluSR => cases h; exact reluSrBody_agreeAt hn hx hb hb'
  | reluTC => cases h; exact reluTcBody_agreeAt hn hx hb hb'
  | mulIS | addGNSB | construct | step | replace | cmdReserved => cases h

end

/-- R161: an operation on rationals returns no bits. -/
theorem inputKind_ne_reals_of_commit_bits {i : Instr} {body : Inst → Inputs → CycleResult} {n : Inst}
    {x : Inputs} {r : Regs} {y : List (List Bool)} (h : bodyOf i = some body)
    (hres : body n x = .commit r (.bits y)) : inputKind i ≠ .reals := by
  intro hk
  cases i with
  | linHUB _ rnd | linFXP _ rnd =>
    cases rnd with
    | mode m => cases h; cases hres
    | reserved => cases h
  | _ => cases hk

/-- Settles O14: both runs commit the result of the same rule, and that rule keeps the agreement at entry `b`. -/
theorem batchEntriesAreIndependent : Obligations.BatchEntriesAreIndependent := by
  intro i s s' c c' n n' x x' r r' y y' b hrun hrun' hn hx hb hb' he he'
  obtain ⟨body, hbody, hres⟩ := hrun.body_of_committed he
  obtain ⟨body', hbody', hres'⟩ := hrun'.body_of_committed he'
  obtain rfl : body = body' := Option.some.inj (hbody.symm.trans hbody')
  have hagree := bodyOf_agreeAt hbody (inputKind_ne_reals_of_commit_bits hbody hres) hn hx hb hb'
  rw [hres, hres'] at hagree
  obtain ⟨hregs, hout⟩ := hagree
  exact ⟨hout, hregs.sameEntry, hregs.mc, hregs.cb, hregs.first, hregs.cyc⟩

end Sys2Proof.Machine

/-! PROOFS of the state family (`spec/10_state.md`): what every step keeps of a unit, that is, of a constructed `Inst`
(its legality, configuration and status), the one-time batch growth, the reset values, and the cycles of the
non-scaled adders and of RELU.SR. What a step can do to the units is said once (`InstsChange`), and the three
invariants are read off it. -/

namespace Sys2Proof

/-! ### The rows of the operation map -/

/-- Two rows whose patterns differ in a bit that both masks fix. -/
def Row.conflicts (r r' : Row) : Bool := (r.pat &&& r'.mask) != (r'.pat &&& r.mask)

theorem Row.selects_eq_false_of_conflicts {r r' : Row} (h : r.conflicts r' = true) {d : Desc}
    (hd : r.selects d = true) : r'.selects d = false := by
  by_contra hd'
  simp only [Row.selects, beq_iff_eq, Bool.not_eq_false] at hd hd'
  rw [Row.conflicts, ← hd, ← hd', BitVec.and_assoc, BitVec.and_assoc, BitVec.and_comm r.mask] at h
  simp at h

theorem descRows_conflict : descRows.Pairwise (fun r r' => r.conflicts r' = true) := by
  decide

/-- R82, R83: as the rows are disjoint, any row that matches is the one the decoder takes. -/
theorem decodeDesc_eq_ok_iff {d : Desc} {i : Instr} :
    decodeDesc d = .ok i ↔ ∃ r ∈ descRows, r.selects d = true ∧ r.build d = i := by
  have hfind : ∀ r ∈ descRows, r.selects d = true → descRows.find? (fun r => r.selects d) = some r := by
    intro r hr hd
    obtain ⟨pre, post, hsplit⟩ := List.append_of_mem hr
    refine List.find?_eq_some_iff_append.2 ⟨hd, pre, post, hsplit, fun a ha => ?_⟩
    obtain ⟨-, -, hpair⟩ := List.pairwise_append.1 (hsplit ▸ descRows_conflict)
    have hconf : a.conflicts r = true := hpair a ha r List.mem_cons_self
    cases hda : a.selects d with
    | false => rfl
    | true => exact absurd hd (by simp [Row.selects_eq_false_of_conflicts hconf hda])
  unfold decodeDesc
  constructor
  · intro h
    split at h
    · rename_i r hr
      have hsel := List.find?_some hr
      exact ⟨r, List.mem_of_find?_eq_some hr, hsel, Except.ok.inj h⟩
    · cases h
  · rintro ⟨r, hr, hd, rfl⟩
    rw [hfind r hr hd]

end Sys2Proof

namespace Sys2Proof.Machine

theorem selectedBy_addNSU : SelectedBy .addNSU 0xFF80 0x2000 := fun d => by
  simp [decodeDesc_eq_ok_iff, descRows, Row.selects]

theorem selectedBy_addNSB : SelectedBy .addNSB 0xFF80 0x2100 := fun d => by
  simp [decodeDesc_eq_ok_iff, descRows, Row.selects]

theorem selectedBy_reluSR : SelectedBy .reluSR 0xFE00 0x4200 := fun d => by
  simp [decodeDesc_eq_ok_iff, descRows, Row.selects]

/-- A descriptor selects an operation, never a command: without a cycle there are only the two illegal rows
(R84 (b)). -/
theorem inputKind_of_decodeDesc {d : Desc} {i : Instr} (h : decodeDesc d = .ok i) (hrow : illegalRow i = none) :
    inputKind i ≠ .nothing := by
  intro hk
  cases i with
  | mulIS | addGNSB => cases hrow
  | construct | step | replace | cmdReserved => simp [decodeDesc_eq_ok_iff, descRows] at h
  | _ => cases hk

/-! ### What a step can do to the units -/

theorem runOperation_eq_cycle {i : Instr} {body : Inst → Inputs → CycleResult} (h : bodyOf i = some body)
    (s : State) : runOperation i s = cycle i body s := by
  unfold bodyOf at h
  split at h <;> cases h <;> rfl

/-- An operation without a rule raises its ConfigurationError (R84 (b), (c)); a command code is no operation. -/
theorem runOperation_of_bodyOf_none {i : Instr} (h : bodyOf i = none) (s : State) :
    runOperation i s = .fault .wrongOperation ∨ ∃ cause, runOperation i s = raiseConfiguration cause s := by
  cases i with
  | linHUB _ rnd | linFXP _ rnd =>
    cases rnd with
    | mode m => cases h
    | reserved => exact .inr ⟨.invalidRounding, rfl⟩
  | mulIS => exact .inr ⟨.inStreamMultiplication, rfl⟩
  | addGNSB => exact .inr ⟨.gainesNonscaledBipolar, rfl⟩
  | construct | step | replace | cmdReserved => exact .inl rfl
  | _ => cases h

theorem exists_bodyOf_of_legal {n : Inst} (h : n.Legal) : ∃ body, bodyOf n.op = some body := by
  cases hbody : bodyOf n.op with
  | some body => exact ⟨body, rfl⟩
  | none =>
    rcases inputKind_or_wellFormed_of_bodyOf_none hbody with hk | hw
    · exact absurd hk h.operation
    · rw [h.fields] at hw
      cases hw

/-- What one command can make of the live unit it addresses: a table is replaced (R183), a cycle of its
operation is committed, on itself or once expanded (R182, R47), or that cycle raises an error (R196). -/
inductive Inst.Changes (n : Inst) : Inst → Prop
  | replaced {which : Which} {t : Table} {n' : Inst} (h : replaceTable n which t = .ok n') : n.Changes n'
  | cycled {x : Inputs} {m : Inst} {body : Inst → Inputs → CycleResult} {r : Regs} {y : Outputs}
      (hbody : bodyOf n.op = some body) (hm : n.admitted x = .ok m) (hres : body m x = .commit r y) :
      n.Changes { m with regs := r }
  | killed {x : Inputs} {m : Inst} {body : Inst → Inputs → CycleResult} {e : CoreError}
      (hbody : bodyOf n.op = some body) (hm : n.admitted x = .ok m) (hres : body m x = .raise e) :
      n.Changes (killed n e)

/-- What one step can make of the list of units: nothing new, one constructed unit more (R181), or one live
unit changed by its command. -/
inductive InstsChange (l : List Inst) : List Inst → Prop
  | same : InstsChange l l
  | made {d : Desc} {p : Params} {n : Inst} (h : buildDesc d p = .made n) : InstsChange l (l ++ [n])
  | changed {k : Nat} {n n' : Inst} (hn : l[k]? = some n) (hlive : n.dead = false) (h : n.Changes n') :
      InstsChange l (l.set k n')

theorem decline_insts {s t : State} {c : Command} {why : Decline} (h : decline s c why = .next t) :
    InstsChange s.insts t.insts := by
  cases h
  exact .same

theorem raiseConfiguration_insts {s t : State} {cause : ConfigCause} (h : raiseConfiguration cause s = .next t) :
    InstsChange s.insts t.insts := by
  unfold raiseConfiguration at h
  split at h
  · cases h
  · cases h
    exact .same

theorem cycle_insts {s t : State} {c : Command} {n : Inst} {body : Inst → Inputs → CycleResult}
    (hc : s.commands.head? = some c) (hn : s.insts[c.inst]? = some n) (hbody : bodyOf n.op = some body)
    (h : cycle n.op body s = .next t) : InstsChange s.insts t.insts := by
  rcases cycle_cases (i := n.op) (body := body) hc with ⟨hn', -⟩ | ⟨n₀, hn₀, hcases⟩
  · rw [hn] at hn'
    cases hn'
  obtain rfl : n = n₀ := Option.some.inj (hn.symm.trans hn₀)
  rcases hcases with ⟨-, hd⟩ | ⟨-, hop, -⟩ | ⟨-, -, -, hd⟩ | ⟨x, hlive, -, -, hrun⟩
  · exact decline_insts (hd.symm.trans h)
  · exact absurd rfl hop
  · exact decline_insts (hd.symm.trans h)
  rcases hrun with ⟨why, -, hd⟩ | ⟨m, hm, ⟨r, y, hres, hd⟩ | ⟨e, hres, hd⟩⟩
  · exact decline_insts (hd.symm.trans h)
  · cases hd.symm.trans h
    exact .changed hn hlive (.cycled hbody hm hres)
  · have hraise := hd.symm.trans h
    simp only [raiseError, hn] at hraise
    cases hraise
    exact .changed hn hlive (.killed hbody hm hres)

theorem execStep_insts {s t : State} (h : execStep s = .next t) : InstsChange s.insts t.insts := by
  unfold execStep at h
  split at h
  · cases h
  · rename_i c rest hcs
    split at h
    · exact decline_insts h
    · rename_i n hn
      cases hbody : bodyOf n.op with
      | some body =>
        rw [runOperation_eq_cycle hbody] at h
        exact cycle_insts (by rw [hcs]; rfl) hn hbody h
      | none =>
        rcases runOperation_of_bodyOf_none hbody s with hf | ⟨cause, hr⟩
        · rw [hf] at h
          cases h
        · exact raiseConfiguration_insts (hr.symm.trans h)

theorem execConstruct_insts {s t : State} (h : execConstruct s = .next t) : InstsChange s.insts t.insts := by
  unfold execConstruct at h
  split at h
  · cases h
  · split at h
    · cases h
      exact .same
    · exact decline_insts h
    · rename_i n hn
      cases h
      exact .made hn

theorem execReplace_insts {s t : State} (h : execReplace s = .next t) : InstsChange s.insts t.insts := by
  unfold execReplace at h
  split at h
  · cases h
  · split at h
    · exact decline_insts h
    · rename_i n hn
      split at h
      · exact decline_insts h
      · rename_i hlive
        split at h
        · exact decline_insts h
        · rename_i n' hn'
          cases h
          exact .changed hn (by simpa [Inst.isDead] using hlive) (.replaced hn')

theorem execCmdReserved_insts {s t : State} (h : execCmdReserved s = .next t) : InstsChange s.insts t.insts := by
  unfold execCmdReserved at h
  split at h
  · cases h
  · exact decline_insts h

theorem decodeCmd_cases (c : CmdCode) :
    decodeCmd c = .construct ∨ decodeCmd c = .step ∨ decodeCmd c = .replace ∨ decodeCmd c = .cmdReserved := by
  unfold decodeCmd
  split <;> simp

/-- The inversion of a step, on the units. -/
theorem step_insts {s t : State} (h : step s = .next t) : InstsChange s.insts t.insts := by
  unfold step fetch at h
  cases hcs : s.commands with
  | nil =>
    simp only [hcs] at h
    cases h
    exact .same
  | cons c rest =>
    simp only [hcs] at h
    rcases decodeCmd_cases c.code with hi | hi | hi | hi <;> rw [hi] at h
    · exact execConstruct_insts h
    · exact execStep_insts h
    · exact execReplace_insts h
    · exact execCmdReserved_insts h

/-- What becomes of the unit at one handle. -/
theorem InstsChange.getElem? {l l' : List Inst} {k : Nat} {n : Inst} (h : InstsChange l l') (hn : l[k]? = some n) :
    ∃ n', l'[k]? = some n' ∧ (n' = n ∨ (n.dead = false ∧ n.Changes n')) := by
  obtain ⟨hlt, -⟩ := List.getElem?_eq_some_iff.1 hn
  cases h with
  | same => exact ⟨n, hn, .inl rfl⟩
  | made => exact ⟨n, by rw [List.getElem?_append_left hlt, hn], .inl rfl⟩
  | @changed j m m' hm hlive hch =>
    by_cases hjk : j = k
    · subst hjk
      obtain rfl : n = m := Option.some.inj (hn.symm.trans hm)
      exact ⟨m', List.getElem?_set_self hlt, .inr ⟨hlive, hch⟩⟩
    · exact ⟨n, by rw [List.getElem?_set_ne hjk, hn], .inl rfl⟩

/-! ### Configuration -/

theorem SameConfiguration.refl (n : Inst) : SameConfiguration n n :=
  ⟨rfl, rfl, rfl, rfl, rfl, rfl, rfl, rfl, rfl, rfl, rfl, rfl, rfl⟩

theorem eq_or_grow_of_admitted {n m : Inst} {x : Inputs} (h : n.admitted x = .ok m) :
    m = n ∨ (m = n.grow x.batch ∧ n.batch = 1 ∧ 1 < x.batch) := by
  rcases admit_cases n x with ⟨-, ha⟩ | ⟨-, hb, hx, -, ha⟩ | ⟨-, -, -, ha⟩ | ⟨-, -, ha⟩ <;>
    cases ha.symm.trans h
  · exact .inl rfl
  · exact .inr ⟨rfl, hb, hx⟩

/-- R20, R63: a cycle writes registers only and the growth the batch size, REPLACE a level table or a rational
tensor, and an error the status. -/
theorem Inst.Changes.sameConfiguration {n n' : Inst} (h : n.Changes n') : SameConfiguration n n' := by
  cases h with
  | replaced hrep =>
    rcases replaceTable_cases hrep with ⟨v, -, -, -, rfl⟩ | ⟨v, -, -, -, rfl⟩ | ⟨v, -, -, -, rfl⟩ |
      ⟨v, -, -, rfl⟩ | ⟨v, -, -, rfl⟩ <;> exact .refl n
  | cycled _ hm _ =>
    rcases eq_or_grow_of_admitted hm with rfl | ⟨rfl, -, -⟩
    · exact .refl _
    · exact .refl n
  | killed _ _ _ => exact .refl n

/-- Settles O12: whatever a step does to a unit keeps its configuration. -/
theorem configurationNeverChanges : Obligations.ConfigurationNeverChanges := by
  intro s t k n hstep hn
  obtain ⟨n', hn', rfl | ⟨-, hch⟩⟩ := (step_insts hstep).getElem? hn
  · exact ⟨n', hn', .refl n'⟩
  · exact ⟨n', hn', hch.sameConfiguration⟩

/-! ### Status -/

/-- R193: the one error a cycle can raise, a MUX index that is not below `N`. -/
theorem raise_of_body {i : Instr} {body : Inst → Inputs → CycleResult} {n : Inst} {x : Inputs} {e : CoreError}
    (h : bodyOf i = some body) (hres : body n x = .raise e) :
    i = .addGMUX ∧ n.n ≤ at1 n.muxSeq n.regs.mc ∧ e = .precondition (at1 n.muxSeq n.regs.mc) n.n := by
  cases i with
  | addGMUX =>
    cases h
    simp only [addGmuxBody] at hres
    split_ifs at hres with hj
    cases hres
    exact ⟨rfl, hj, rfl⟩
  | linURC scaled | linUTC scaled | linBRC scaled | linBTC scaled =>
    cases h
    cases scaled <;> cases hres
  | linHUB _ rnd | linFXP _ rnd =>
    cases rnd with
    | mode m =>
      cases h
      cases hres
    | reserved => cases h
  | mulIS | addGNSB | construct | step | replace | cmdReserved => cases h
  | _ =>
    cases h
    cases hres

/-- R27, R196: only an error sets `dead`, and it writes nothing else but `err`. -/
theorem Inst.Changes.of_dies {n n' : Inst} (h : n.Changes n') (hlive : n.dead = false) (hdead : n'.dead = true) :
    n.op = .addGMUX ∧ n.n ≤ at1 n.muxSeq n.regs.mc ∧ n' = { n with dead := true, err := 3 } := by
  cases h with
  | replaced hrep =>
    rcases replaceTable_cases hrep with ⟨v, -, -, -, rfl⟩ | ⟨v, -, -, -, rfl⟩ | ⟨v, -, -, -, rfl⟩ |
      ⟨v, -, -, rfl⟩ | ⟨v, -, -, rfl⟩ <;> cases hlive.symm.trans hdead
  | cycled _ hm _ =>
    rcases eq_or_grow_of_admitted hm with rfl | ⟨rfl, -, -⟩ <;> cases hlive.symm.trans hdead
  | killed hbody hm hres =>
    rcases eq_or_grow_of_admitted hm with rfl | ⟨rfl, -, -⟩
    · obtain ⟨hop, hj, rfl⟩ := raise_of_body hbody hres
      exact ⟨hop, hj, rfl⟩
    · obtain ⟨hop, hj, rfl⟩ := raise_of_body hbody hres
      exact ⟨hop, hj, rfl⟩

/-- Settles O13: a change needs a live unit, and only the error of ADD.GMUX sets `dead`. -/
theorem onlyAnIllegalMuxIndexKills : Obligations.OnlyAnIllegalMuxIndexKills := by
  intro s t k n n' _ hstep hn hn'
  obtain ⟨m, hm, hcases⟩ := (step_insts hstep).getElem? hn
  obtain rfl : n' = m := Option.some.inj (hn'.symm.trans hm)
  rcases hcases with rfl | ⟨hlive, hch⟩
  · exact ⟨fun _ => rfl, fun hlive hdead => (by cases hlive.symm.trans hdead)⟩
  · exact ⟨fun hdead => (by cases hlive.symm.trans hdead), fun _ hdead => hch.of_dies hlive hdead⟩

/-! ### A STEP that is admitted or refused -/

/-- What a cycle comes to on an addressed live unit, given the unit that executes it: that unit's result. -/
theorem cycle_of_admitted {s : State} {c : Command} {n m : Inst} {x : Inputs}
    (body : Inst → Inputs → CycleResult) (hc : s.commands.head? = some c) (hn : s.insts[c.inst]? = some n)
    (hlive : n.dead = false) (hx : c.feed.resolve s.reports = some x) (hm : n.admitted x = .ok m) :
    cycle n.op body s =
      match body m x with
      | .commit r y => .next (afterCycle s c m r y)
      | .raise e => raiseError s c (some c.inst) e := by
  have hcs := commands_eq_cons hc
  rw [cycle, hcs]
  simp only [hn, Inst.isDead, hlive, hx, hm, ne_eq, not_true_eq_false, Bool.false_eq_true, if_false]
  cases body m x <;> rfl

theorem cycle_of_not_admitted {s : State} {c : Command} {n : Inst} {x : Inputs} {why : Decline}
    (body : Inst → Inputs → CycleResult) (hc : s.commands.head? = some c) (hn : s.insts[c.inst]? = some n)
    (hlive : n.dead = false) (hx : c.feed.resolve s.reports = some x) (hm : n.admitted x = .error why) :
    cycle n.op body s = .next (afterAnswer s c (.declined why)) := by
  have hcs := commands_eq_cons hc
  rw [cycle, hcs]
  simp only [hn, Inst.isDead, hlive, hx, hm, ne_eq, not_true_eq_false, Bool.false_eq_true, if_false]
  rfl

theorem step_of_stepCommand {s : State} {c : Command} {n : Inst} {body : Inst → Inputs → CycleResult}
    (hc : s.commands.head? = some c) (hcode : c.code = 1) (hn : s.insts[c.inst]? = some n)
    (hbody : bodyOf n.op = some body) : step s = cycle n.op body s := by
  have hcs := commands_eq_cons hc
  have hstep : step s = execStep s := by
    rw [step, fetch, hcs]
    simp only [hcode]
    rfl
  rw [hstep, execStep, hcs]
  simp only [hn]
  exact runOperation_eq_cycle hbody s

theorem batch_of_fitsAt {n : Inst} {k : Nat} {x : Inputs} (h : n.fitsAt k x = true) : x.batch = k := by
  unfold Inst.fitsAt at h
  split at h
  case h_7 => cases h
  all_goals
    simp only [Bool.and_eq_true, hasShape2_iff, hasShape3_iff] at h
    simp only [Inputs.batch, h]

/-- Settles O16: the shape check refuses the inputs, and the refusal is the command's answer. -/
theorem unfitInputsAreRefused : Obligations.UnfitInputsAreRefused := by
  intro s c n x hlegal hc hcode hn hlive hx
  obtain ⟨body, hbody⟩ := exists_bodyOf_of_legal hlegal
  have hdeclined : ∀ why, n.admitted x = .error why →
      step s = .next (afterAnswer s c (.declined why)) := fun why hm =>
    (step_of_stepCommand hc hcode hn hbody).trans (cycle_of_not_admitted body hc hn hlive hx hm)
  rcases admit_cases n x with ⟨hfits, -⟩ | ⟨-, hb, hxb, hfit, -⟩ | ⟨-, hfit, -, hm⟩ | ⟨-, hfit, hm⟩
  · have hfit : n.fitsAt x.batch x = true := by rw [batch_of_fitsAt hfits]; exact hfits
    exact ⟨fun h => (by cases h.symm.trans hfit), fun _ h => (by cases h.symm.trans hfits)⟩
  · exact ⟨fun h => (by cases h.symm.trans hfit), fun _ _ h => absurd ⟨hb, hxb⟩ h⟩
  · exact ⟨fun h => (by cases h.symm.trans hfit), fun _ _ _ => hdeclined _ hm⟩
  · exact ⟨fun _ => hdeclined _ hm, fun h => (by cases h.symm.trans hfit)⟩

/-! ### Registers in range: built, read, expanded -/

section

variable {α : Type} [Inhabited α] {own : Bool} {r c : Nat} {t : List (List α)} {ok : Nat → Nat → α → Prop}

theorem Holds2.of_tab2 {f : Nat → Nat → α} (hown : own = true) (h : ∀ i, i < r → ∀ j, j < c → ok i j (f i j)) :
    Holds2 own r c (tab2 r c f) ok := by
  rw [Holds2, if_pos hown]
  refine ⟨hasShape2_tab2 r c f, fun i hi j hj => ?_⟩
  rw [at2_tab2 f hi hj]
  exact h i hi j hj

theorem Holds2.lane (h : Holds2 own r c t ok) (hown : own = true) {i j : Nat} (hi : i < r) (hj : j < c) :
    ok i j (at2 t i j) := by
  rw [Holds2, if_pos hown] at h
  exact h.2 i hi j hj

theorem Holds2.of_whenRead {f : Nat → Nat → α} (h : own = true → ∀ i, i < r → ∀ j, j < c → ok i j (f i j)) :
    Holds2 own r c (whenRead own (tab2 r c f)) ok := by
  cases own with
  | false => rfl
  | true => exact .of_tab2 rfl (h rfl)

theorem Holds2.nil_or_length_one (h : Holds2 own 1 c t ok) : t = [] ∨ t.length = 1 := by
  unfold Holds2 at h
  split at h
  · exact .inr ((hasShape2_iff 1 c t).1 h.1).1
  · exact .inl h

/-- R47: what holds of entry 0 holds of every entry of the expanded register. -/
theorem Holds2.grow {ok' : Nat → Nat → α → Prop} {k : Nat} (h : Holds2 own 1 c t ok)
    (hok : ∀ b, b < k → ∀ j v, ok 0 j v → ok' b j v) : Holds2 own k c (growBatch k t) ok' := by
  unfold Holds2 at h ⊢
  split_ifs at h ⊢ with hown
  · obtain ⟨hshape, hlanes⟩ := h
    obtain ⟨hlen, hrows⟩ := (hasShape2_iff 1 c t).1 hshape
    refine ⟨(hasShape2_iff k c _).2 ⟨growBatch_length k hlen, fun u hu => hrows u (mem_growBatch hu)⟩, ?_⟩
    intro b hb j hj
    rw [at2_growBatch j hlen hb]
    exact hok b hb j _ (hlanes 0 Nat.one_pos j hj)
  · rw [h, growBatch_nil]

end

section

variable {own : Bool} {r c d limit : Nat} {t : List (List (List Nat))}

theorem Holds3.of_tab3 {f : Nat → Nat → Nat → Nat} (hown : own = true) (h : ∀ i j k, f i j k < limit) :
    Holds3 own r c d (tab3 r c d f) limit := by
  rw [Holds3, if_pos hown]
  refine ⟨hasShape3_tab3 r c d f, fun i hi j hj k hk => ?_⟩
  rw [at3_tab3 f hi hj hk]
  exact h i j k

theorem Holds3.of_whenRead {f : Nat → Nat → Nat → Nat} (h : ∀ i j k, f i j k < limit) :
    Holds3 own r c d (whenRead own (tab3 r c d f)) limit := by
  cases own with
  | false => rfl
  | true => exact .of_tab3 rfl h

theorem Holds3.nil_or_length_one (h : Holds3 own 1 c d t limit) : t = [] ∨ t.length = 1 := by
  unfold Holds3 at h
  split at h
  · exact .inr ((hasShape3_iff 1 c d t).1 h.1).1
  · exact .inl h

theorem Holds3.grow {k : Nat} (h : Holds3 own 1 c d t limit) : Holds3 own k c d (growBatch k t) limit := by
  unfold Holds3 at h ⊢
  split_ifs at h ⊢ with hown
  · obtain ⟨hshape, hlanes⟩ := h
    obtain ⟨hlen, hrows⟩ := (hasShape3_iff 1 c d t).1 hshape
    refine ⟨(hasShape3_iff k c d _).2 ⟨growBatch_length k hlen, fun u hu => hrows u (mem_growBatch hu)⟩, ?_⟩
    intro b hb i hi j hj
    rw [at3_growBatch i j hlen hb]
    exact hlanes 0 Nat.one_pos i hi j hj
  · rw [h, growBatch_nil]

end

/-! ### The one-time batch growth -/

/-- R47: entry `b` of the expanded registers is entry 0 of the old ones. -/
theorem RegsLegal.sameEntry_grow {n : Inst} (h : RegsLegal n) (hb : n.batch = 1) {k b : Nat} (hbk : b < k) :
    SameEntry (n.regs.grow k) b n.regs 0 := by
  obtain ⟨hc1, hc0, hacc, hacc2, hoacc, -, hcw, hcwi, -, hracc, hring, hpop, -, htacc, -⟩ := h
  rw [hb] at hc1 hc0 hacc hacc2 hoacc hcw hcwi hracc hring hpop htacc
  exact ⟨at1_growBatch_zero hc1.nil_or_length_one hbk, at1_growBatch_zero hc0.nil_or_length_one hbk,
    at1_growBatch_zero hacc.nil_or_length_one hbk, at1_growBatch_zero hacc2.nil_or_length_one hbk,
    at1_growBatch_zero hoacc.nil_or_length_one hbk, at1_growBatch_zero hcw.nil_or_length_one hbk,
    at1_growBatch_zero hcwi.nil_or_length_one hbk, at1_growBatch_zero hracc.nil_or_length_one hbk,
    at1_growBatch_zero hring.nil_or_length_one hbk, at1_growBatch_zero hpop.nil_or_length_one hbk,
    at1_growBatch_zero htacc.nil_or_length_one hbk⟩

theorem RegsLegal.grow {n : Inst} (h : RegsLegal n) (hb : n.batch = 1) (k : Nat) : RegsLegal (n.grow k) := by
  have hentry : ∀ b, b < k → SameEntry (n.regs.grow k) b n.regs 0 := fun b hbk => h.sameEntry_grow hb hbk
  obtain ⟨hc1, hc0, hacc, hacc2, hoacc, hmc, hcw, hcwi, hcb, hracc, hring, hpop, hfirst, htacc, hcyc⟩ := h
  rw [hb] at hc1 hc0 hacc hacc2 hoacc hcw hcwi hracc hring hpop htacc
  refine ⟨hc1.grow fun _ _ _ _ hv => hv, hc0.grow fun _ _ _ _ hv => hv, hacc.grow fun _ _ _ _ hv => hv,
    hacc2.grow fun b hbk j v hv => ?_, hoacc.grow fun _ _ _ _ hv => hv, hmc, hcw.grow, hcwi.grow, hcb,
    hracc.grow fun _ _ _ _ hv => hv, hring.grow fun _ _ _ _ hv => hv, hpop.grow fun b hbk j v hv => ?_, hfirst,
    htacc.grow fun _ _ _ _ hv => hv, hcyc⟩
  · obtain ⟨-, -, -, -, ho, -⟩ := hentry b hbk
    simp only [grow_regs, at2, ho]
    exact hv
  · obtain ⟨-, -, -, -, -, -, -, -, hr, -⟩ := hentry b hbk
    simp only [grow_regs, at2, hr]
    exact hv

theorem Inst.Legal.grow {n : Inst} (h : n.Legal) (hb : n.batch = 1) {k : Nat} (hk : 1 ≤ k) : (n.grow k).Legal :=
  { h with batch := hk, regs := h.regs.grow hb k }

theorem Inst.Legal.of_admitted {n m : Inst} {x : Inputs} (h : n.Legal) (hm : n.admitted x = .ok m) : m.Legal := by
  rcases eq_or_grow_of_admitted hm with rfl | ⟨rfl, hb, hx⟩
  · exact h
  · exact h.grow hb hx.le

/-- R193: with a legal MUX index every operation commits. -/
theorem exists_commit_of_body {i : Instr} {body : Inst → Inputs → CycleResult} {n : Inst} {x : Inputs}
    (h : bodyOf i = some body) (hmux : i = .addGMUX → at1 n.muxSeq n.regs.mc < n.n) :
    ∃ r y, body n x = .commit r y := by
  cases hres : body n x with
  | commit r y => exact ⟨r, y, rfl⟩
  | raise e =>
    obtain ⟨hi, hj, -⟩ := raise_of_body h hres
    exact absurd (hmux hi) (Nat.not_lt.2 hj)

/-- Settles O15: the STEP and a STEP of the expanded unit commit the same cycle. -/
theorem batchGrowthRunsTheExpandedInstance : Obligations.BatchGrowthRunsTheExpandedInstance := by
  intro s c n x hlegal hc hn hlive hx hb hxb hfit hmux g
  obtain ⟨hlt, -⟩ := List.getElem?_eq_some_iff.1 hn
  have hrun : Running { s with insts := s.insts.set c.inst g } n.op c g x :=
    ⟨hc, List.getElem?_set_self hlt, hlive, rfl, hx, hfit⟩
  have hm : n.admitted x = .ok g := by
    have hfits : n.fits x = false := by
      cases hf : n.fits x with
      | false => rfl
      | true =>
        have hbatch := batch_of_fitsAt hf
        omega
    simp [Inst.admitted, hfits, hfit, hb, hxb, g]
  obtain ⟨body, hbody⟩ := exists_bodyOf_of_legal hlegal
  obtain ⟨r, y, hres⟩ : ∃ r y, body g x = .commit r y := exists_commit_of_body hbody hmux
  have hexec : exec n.op s = .next (afterCycle s c g r y) := by
    rw [exec_eq_cycle hbody, cycle_of_admitted body hc hn hlive hx hm, hres]
  have hexec' : exec n.op { s with insts := s.insts.set c.inst g } = .next (afterCycle s c g r y) := by
    rw [exec_eq_cycle hbody, cycle_commit hrun hres]
    simp [afterCycle, List.set_set]
  exact ⟨hrun, hexec.trans hexec'.symm, hlegal.grow hb hxb.le, rfl,
    fun b hbx => hlegal.regs.sameEntry_grow hb hbx, rfl, rfl, rfl, rfl, r, y, hexec⟩

/-! ### One lane of a register -/

/-- R25: on even sums an out-accumulator that starts at most at the accumulator stays at most at it. -/
theorem nonscaledOacc_le {offset2 acc2 : Int} {oacc s : Nat} (heven : nonscaledSum offset2 acc2 s % 2 = 0)
    (hle : 2 * (oacc : Int) ≤ nonscaledSum offset2 acc2 s) :
    2 * (nonscaledOacc offset2 acc2 oacc s : Int) ≤ nonscaledSum offset2 acc2 s := by
  unfold nonscaledOacc nonscaledOut
  by_cases h : nonscaledSum offset2 acc2 s > 2 * (oacc : Int)
  · simp only [h, decide_true, bitNat, Bool.toNat_true]
    omega
  · simp only [h, decide_false, bitNat, Bool.toNat_false]
    omega

theorem halfOf_le_accMaxOf {depth : Nat} (hd : 1 ≤ depth) : halfOf depth ≤ accMaxOf depth := by
  obtain ⟨k, rfl⟩ := Nat.exists_eq_add_of_le' hd
  have hpow : 2 ^ (k + 1) = 2 * 2 ^ k := by rw [pow_succ, mul_comm]
  have hpos : 0 < 2 ^ k := Nat.two_pow_pos k
  simp only [halfOf, accMaxOf, Nat.add_sub_cancel, hpow]
  omega

/-- R166: below HALF the output is 1, so the accumulator never falls below `HALF − 1`. -/
theorem rcNext_range {depth racc : Nat} (x : Bool) (hd : 1 ≤ depth)
    (h : halfOf depth ≤ racc + 1 ∧ racc ≤ accMaxOf depth) :
    halfOf depth ≤ rcNext depth racc x + 1 ∧ rcNext depth racc x ≤ accMaxOf depth := by
  have hmax := halfOf_le_accMaxOf hd
  have hhalf : 1 ≤ halfOf depth := Nat.two_pow_pos _
  have hout : bitNat (rcOut depth racc x) = 1 ∨ (bitNat (rcOut depth racc x) = 0 ∧ halfOf depth ≤ racc) := by
    cases hx : rcOut depth racc x with
    | true => exact .inl rfl
    | false =>
      simp only [rcOut, Bool.or_eq_false_iff, decide_eq_false_iff_not, not_lt] at hx
      exact .inr ⟨rfl, hx.2⟩
  unfold rcNext clamp
  split_ifs <;> omega

/-- R28: the count follows the ring when the oldest bit leaves it. -/
theorem srPop_eq_count {ring : List Bool} {pop : Nat} (y : Bool) (hne : ring ≠ []) (hpop : pop = ring.count true) :
    srPop ring pop y = (srPush ring y).count true := by
  cases ring with
  | nil => exact absurd rfl hne
  | cons ev rest =>
    subst hpop
    cases ev <;> cases y <;> simp [srPop, srPush, bitNat, at1]

/-! ### A committed cycle keeps the registers in range -/

/-- A result that commits leaves the registers of `n` in range. -/
def CycleResult.KeepsRegs (n : Inst) : CycleResult → Prop
  | .commit r _ => RegsLegal { n with regs := r }
  | .raise _ => True

section

variable {n : Inst} {x : Inputs}

theorem mulSuBody_keepsRegs (h : RegsLegal n) (hop : n.op = .mulSU) : (mulSuBody n x).KeepsRegs n :=
  { h with c1 := .of_tab2 (by rw [hop]; rfl) fun _ _ _ _ => advance_lt _ _ (period_pos _) }

theorem mulSbBody_keepsRegs (h : RegsLegal n) (hop : n.op = .mulSB) : (mulSbBody n x).KeepsRegs n :=
  { h with
    c1 := .of_tab2 (by rw [hop]; rfl) fun _ _ _ _ => advance_lt _ _ (period_pos _)
    c0 := .of_tab2 (by rw [hop]; rfl) fun _ _ _ _ => advance_lt _ _ (period_pos _) }

/-- The scaled output stage, on registers `r` that are in range but for `acc` (R24). -/
theorem scaledStage_keepsRegs {count : Nat → Nat → Nat} {r : Regs} (h : RegsLegal n)
    (hr : RegsLegal { n with regs := r }) (hown : (ownsOf n.op).acc = true)
    (hcount : ∀ b o, count b o ≤ boundOf n.n (hasBias n.op)) :
    (scaledStage n (boundOf n.n (hasBias n.op)) count r).KeepsRegs n :=
  { hr with acc := .of_tab2 hown fun b hb o ho => scaledNext_lt (h.acc.lane hown hb ho) (hcount b o) }

/-- The non-scaled output stage, on registers `r` that are in range but for `acc2` and `oacc` (R25). -/
theorem nonscaledStage_keepsRegs {count : Nat → Nat → Nat} {offset2 : Int} {r : Regs} (h : RegsLegal n)
    (hr : RegsLegal { n with regs := r }) (hown : (ownsOf n.op).nonscaled = true)
    (hoffset : zeroOffset n.op = true → offset2 = 0) : (nonscaledStage n offset2 count r).KeepsRegs n := by
  refine { hr with acc2 := .of_tab2 hown fun b hb o ho hz => ?_, oacc := .of_tab2 hown fun _ _ _ _ => trivial }
  obtain ⟨heven, hle⟩ := h.acc2.lane hown hb ho hz
  rw [at2_tab2 _ hb ho]
  have hsum : nonscaledSum offset2 (at2 n.regs.acc2 b o) (count b o) =
      at2 n.regs.acc2 b o + 2 * (count b o : Int) := by
    rw [nonscaledSum, hoffset hz, sub_zero]
  have heven' : nonscaledSum offset2 (at2 n.regs.acc2 b o) (count b o) % 2 = 0 := by omega
  exact ⟨heven', nonscaledOacc_le heven' (by omega)⟩

theorem axisCount_le (b o : Nat) : axisCount n x b o ≤ n.n := sumNat_le _ _ fun _ => bitNat_le_one _

theorem addScBody_keepsRegs (h : RegsLegal n) (hop : n.op = .addSC) : (addScBody n x).KeepsRegs n := by
  have hbias : hasBias n.op = false := by rw [hop]; rfl
  rw [addScBody, ← hbias]
  exact scaledStage_keepsRegs h h (by rw [hop]; rfl) fun b o => by rw [hbias]; exact axisCount_le b o

theorem addNsuBody_keepsRegs (h : RegsLegal n) (hop : n.op = .addNSU) : (addNsuBody n x).KeepsRegs n :=
  nonscaledStage_keepsRegs h h (by rw [hop]; rfl) fun _ => rfl

theorem addNsbBody_keepsRegs (h : RegsLegal n) (hop : n.op = .addNSB) : (addNsbBody n x).KeepsRegs n :=
  nonscaledStage_keepsRegs h h (by rw [hop]; rfl) fun hz => by rw [hop] at hz; cases hz

theorem addGmuxBody_keepsRegs (h : RegsLegal n) (hop : n.op = .addGMUX) : (addGmuxBody n x).KeepsRegs n := by
  simp only [addGmuxBody]
  split_ifs
  · trivial
  · have hown : (ownsOf n.op).mc = true := by rw [hop]; rfl
    have hmc := h.mc
    rw [if_pos hown] at hmc
    refine { h with mc := ?_ }
    rw [if_pos hown]
    exact Nat.mod_lt _ (Nat.zero_lt_of_lt hmc)

/-- The exact variant of the linear layer with the given coding, policy, output stage and bias lane. -/
def linInstr (bipolar temporal scaled bias : Bool) : Instr :=
  match bipolar, temporal with
  | false, false => .linURC scaled bias
  | false, true => .linUTC scaled bias
  | true, false => .linBRC scaled bias
  | true, true => .linBTC scaled bias

theorem bodyOf_linInstr (bipolar temporal scaled bias : Bool) :
    bodyOf (linInstr bipolar temporal scaled bias) = some (linBody bipolar temporal scaled bias) := by
  cases bipolar <;> cases temporal <;> rfl

theorem ownsOf_linInstr (bipolar temporal scaled bias : Bool) :
    ownsOf (linInstr bipolar temporal scaled bias) =
      { Owns.none with cw := true, cwi := bipolar, cb := bias, acc := scaled, nonscaled := !scaled } := by
  cases bipolar <;> cases temporal <;> rfl

theorem hasBias_linInstr (bipolar temporal scaled bias : Bool) :
    hasBias (linInstr bipolar temporal scaled bias) = bias := by
  cases bipolar <;> cases temporal <;> rfl

theorem zeroOffset_linInstr (bipolar temporal scaled bias : Bool) :
    zeroOffset (linInstr bipolar temporal scaled bias) = !bipolar := by
  cases bipolar <;> cases temporal <;> rfl

/-- R137: an input lane is counted in one pass only, so the count is at most the number of lanes. -/
theorem linCount_le (bipolar bias : Bool) (b o : Nat) : linCount bipolar bias n x b o ≤ boundOf n.n bias := by
  have hpasses : posCount n x b o + negCount n x b o ≤ n.n := by
    rw [posCount, negCount, ← sumNat_add]
    refine sumNat_le _ _ fun i => ?_
    cases x.bit b i <;> simpa [bitNat] using bitNat_le_one _
  have hbias : (if bias then bitNat (biasBit n o) else 0) ≤ bitNat bias := by
    cases bias with
    | false => rfl
    | true => exact bitNat_le_one _
  unfold linCount boundOf
  split <;> omega

theorem linCounters_regsLegal {bipolar temporal scaled bias : Bool} (h : RegsLegal n)
    (hop : n.op = linInstr bipolar temporal scaled bias) :
    RegsLegal { n with regs := linCounters bipolar temporal bias n x } := by
  have hown := ownsOf_linInstr bipolar temporal scaled bias
  rw [← hop] at hown
  have hadvance : ∀ c e, advance n.period c e < n.period := fun c e => advance_lt c e (period_pos _)
  refine { h with cw := .of_tab3 (by rw [hown]) fun _ _ _ => hadvance _ _, cwi := ?_, cb := ?_ }
  · cases bipolar with
    | false => exact h.cwi
    | true => exact .of_tab3 (by rw [hown]) fun _ _ _ => hadvance _ _
  · cases bias with
    | false => exact h.cb
    | true =>
      rw [if_pos (by rw [hown])]
      refine ⟨tab1_length _ _, fun o ho => ?_⟩
      rw [show (linCounters bipolar temporal true n x).cb =
        tab1 n.o (fun o => advance n.period (at1 n.regs.cb o) true) from rfl, at1_tab1 _ ho]
      exact hadvance _ _

theorem linBody_keepsRegs {bipolar temporal scaled bias : Bool} (h : RegsLegal n)
    (hop : n.op = linInstr bipolar temporal scaled bias) :
    (linBody bipolar temporal scaled bias n x).KeepsRegs n := by
  have hcounters : RegsLegal { n with regs := linCounters bipolar temporal bias n x } :=
    linCounters_regsLegal h hop
  have hown := ownsOf_linInstr bipolar temporal scaled bias
  rw [← hop] at hown
  cases scaled with
  | true =>
    have hbias : hasBias n.op = bias := by rw [hop, hasBias_linInstr]
    subst hbias
    exact scaledStage_keepsRegs h hcounters (by rw [hown]) (linCount_le _ _)
  | false =>
    refine nonscaledStage_keepsRegs h hcounters (by rw [hown]; rfl) fun hz => ?_
    rw [hop, zeroOffset_linInstr, Bool.not_eq_true'] at hz
    rw [hz]
    rfl

theorem reluRcBody_keepsRegs (h : RegsLegal n) (hop : n.op = .reluRC) (hd : 1 ≤ n.depth) :
    (reluRcBody n x).KeepsRegs n :=
  have hown : (ownsOf n.op).racc = true := by rw [hop]; rfl
  { h with racc := .of_tab2 hown fun _ hb _ hl => rcNext_range _ hd (h.racc.lane hown hb hl) }

theorem reluSrBody_keepsRegs (h : RegsLegal n) (hop : n.op = .reluSR) (hd : 1 ≤ n.depth) :
    (reluSrBody n x).KeepsRegs n := by
  have hown : (ownsOf n.op).ring = true := by rw [hop]; rfl
  refine
    { h with
      ring := .of_tab2 hown fun b hb l hl => ?_
      pop := .of_tab2 hown fun b hb l hl => ?_
      first := fun _ => rfl }
  · have hlen := h.ring.lane hown hb hl
    simp only [srPush, List.length_append, List.length_tail, List.length_singleton, hlen]
    omega
  · rw [at2_tab2 _ hb hl]
    refine srPop_eq_count _ (fun hnil => ?_) (h.pop.lane hown hb hl)
    have hlen := h.ring.lane hown hb hl
    rw [hnil] at hlen
    simp only [List.length_nil] at hlen
    omega

theorem reluTcBody_keepsRegs (h : RegsLegal n) (hop : n.op = .reluTC) : (reluTcBody n x).KeepsRegs n := by
  have hown : (ownsOf n.op).tacc = true := by rw [hop]; rfl
  refine
    { h with
      tacc := .of_tab2 hown fun b hb l hl => ?_
      cyc := fun hno => by cases hown.symm.trans hno }
  exact Nat.add_le_add (h.tacc.lane hown hb hl) (bitNat_le_one _)

/-- R22 to R28: the rule of every operation keeps the registers in range. -/
theorem bodyOf_keepsRegs {i : Instr} {body : Inst → Inputs → CycleResult} (h : bodyOf i = some body)
    (hop : n.op = i) (hn : n.Legal) : (body n x).KeepsRegs n := by
  have hr := hn.regs
  have hdepth := hn.depth
  rw [hop] at hdepth
  cases i with
  | bsgU | bsgB | mulAND | mulXNOR | addGOR => cases h; exact hr
  | linHUB _ rnd | linFXP _ rnd =>
    cases rnd with
    | mode m => cases h; exact hr
    | reserved => cases h
  | mulSU => cases h; exact mulSuBody_keepsRegs hr hop
  | mulSB => cases h; exact mulSbBody_keepsRegs hr hop
  | addSC => cases h; exact addScBody_keepsRegs hr hop
  | addNSU => cases h; exact addNsuBody_keepsRegs hr hop
  | addNSB => cases h; exact addNsbBody_keepsRegs hr hop
  | addGMUX => cases h; exact addGmuxBody_keepsRegs hr hop
  | linURC | linUTC | linBRC | linBTC => cases h; exact linBody_keepsRegs hr hop
  | reluRC => cases h; exact reluRcBody_keepsRegs hr hop (hdepth rfl)
  | reluSR => cases h; exact reluSrBody_keepsRegs hr hop (hdepth rfl)
  | reluTC => cases h; exact reluTcBody_keepsRegs hr hop
  | mulIS | addGNSB | construct | step | replace | cmdReserved => cases h

end

/-! ### A command keeps a live unit legal -/

theorem op_of_admitted {n m : Inst} {x : Inputs} (hm : n.admitted x = .ok m) : m.op = n.op := by
  rcases eq_or_grow_of_admitted hm with rfl | ⟨rfl, -, -⟩ <;> rfl

theorem Inst.Legal.of_replaceTable {n n' : Inst} {which : Which} {t : Table} (h : n.Legal)
    (hrep : replaceTable n which t = .ok n') : n'.Legal := by
  rcases replaceTable_cases hrep with ⟨v, -, hlen, hall, rfl⟩ | ⟨v, -, hshape, hall, rfl⟩ |
    ⟨v, -, hlen, hall, rfl⟩ | ⟨v, -, hshape, rfl⟩ | ⟨v, -, hlen, rfl⟩
  · exact { h with regs := { h.regs with }, m := fun _ => ⟨(hasShape1_iff _ _).2 hlen, List.all_eq_true.1 hall⟩ }
  · refine { h with regs := { h.regs with }, mw := fun _ => ⟨hshape, fun u hu => ?_⟩ }
    exact List.all_eq_true.1 (List.all_eq_true.1 hall u hu)
  · exact { h with regs := { h.regs with }, mb := fun _ => ⟨(hasShape1_iff _ _).2 hlen, List.all_eq_true.1 hall⟩ }
  · exact { h with regs := { h.regs with }, w := fun _ => hshape }
  · exact { h with regs := { h.regs with }, c := fun _ => (hasShape1_iff _ _).2 hlen }

/-- R190, R193: the only death is that of ADD.GMUX, with code 3. -/
theorem Inst.Legal.killed {n : Inst} {e : CoreError} (h : n.Legal) (hop : n.op = .addGMUX) (he : errCode e = 3) :
    (killed n e).Legal :=
  { h with regs := { h.regs with }, status := .inr ⟨hop, rfl, he⟩ }

theorem Inst.Legal.of_changes {n n' : Inst} (h : n.Legal) (hch : n.Changes n') : n'.Legal := by
  cases hch with
  | replaced hrep => exact h.of_replaceTable hrep
  | @cycled x m body r y hbody hm hres =>
    have hm' := h.of_admitted hm
    have hkeeps := bodyOf_keepsRegs (x := x) hbody (op_of_admitted hm) hm'
    rw [hres] at hkeeps
    exact { hm' with regs := hkeeps }
  | killed hbody _ hres =>
    obtain ⟨hop, -, rfl⟩ := raise_of_body hbody hres
    exact h.killed hop rfl

/-! ### The reset values are in range -/

/-- R49: the reset values are in range, for a positive period and, where it is read, a positive DEPTH. -/
theorem resetRegs_legal {n : Inst} (hregs : n.regs = resetRegs n.op n.batch n.e n.n n.o n.depth)
    (hn : (ownsOf n.op).acc = true → 1 ≤ n.n) (hdepth : (ownsOf n.op).racc = true → 1 ≤ n.depth)
    (hmux : (ownsOf n.op).mc = true → n.muxSeq ≠ []) : RegsLegal n := by
  have hperiod : 0 < n.period := period_pos _
  constructor <;> rw [hregs]
  case c1 | c0 => exact .of_whenRead fun _ _ _ _ _ => hperiod
  case acc => exact .of_whenRead fun hown _ _ _ _ => Nat.lt_of_lt_of_le (hn hown) (Nat.le_add_right _ _)
  case acc2 =>
    refine .of_whenRead fun hown b hb o ho _ => ⟨rfl, ?_⟩
    simp [resetRegs, hown, whenRead, at2_tab2 _ hb ho]
  case oacc => exact .of_whenRead fun _ _ _ _ _ => trivial
  case mc =>
    split_ifs with hown
    · exact List.length_pos_iff.2 (hmux hown)
    · rfl
  case cw | cwi => exact .of_whenRead fun _ _ _ => hperiod
  case cb =>
    split_ifs with hown
    · simp only [resetRegs, hown, whenRead, if_true, tab1_length, true_and]
      intro o ho
      rw [at1_tab1 _ ho]
      exact hperiod
    · simp only [resetRegs, hown, whenRead]
      rfl
  case racc =>
    exact .of_whenRead fun hown _ _ _ _ => ⟨Nat.le_succ _, halfOf_le_accMaxOf (hdepth hown)⟩
  case ring => exact .of_whenRead fun _ _ _ _ _ => List.length_replicate
  case pop =>
    refine .of_whenRead fun hown b hb l hl => ?_
    simp [resetRegs, hown, whenRead, at2_tab2 _ hb hl, List.count_replicate]
  case first =>
    intro hno
    simp [resetRegs, hno, whenRead]
  case tacc => exact .of_whenRead fun _ _ _ _ _ => Nat.le_refl _
  case cyc => exact fun _ => rfl

/-! ### CONSTRUCT makes legal units -/

theorem whenRead_of_read {α : Type} [Inhabited α] {read : Bool} (h : read = true) (v : α) : whenRead read v = v := by
  rw [whenRead, if_pos h]

section

variable {i : Instr} (p : Params)

theorem makeInst_bitwidth (h : (readsOf i).bitwidth = true) : (makeInst i p).bitwidth = p.bitwidth.toNat :=
  whenRead_of_read h _

theorem makeInst_depth (h : (readsOf i).depth = true) : (makeInst i p).depth = p.depth.toNat := whenRead_of_read h _

theorem makeInst_n (h : (readsOf i).axis = true) : (makeInst i p).n = p.n.toNat := whenRead_of_read h _

theorem makeInst_o (h : (readsOf i).axis = true) : (makeInst i p).o = p.o.toNat := whenRead_of_read h _

theorem makeInst_e (h : (readsOf i).lanes = true) : (makeInst i p).e = p.e.toNat := whenRead_of_read h _

theorem makeInst_muxSeq (h : (readsOf i).mux = true) : (makeInst i p).muxSeq = p.muxSeq.getD [] :=
  whenRead_of_read h _

theorem makeInst_mw (h : (readsOf i).mw = true) : (makeInst i p).mw = p.mw.getD [] := whenRead_of_read h _

theorem makeInst_mb (h : (readsOf i).mb = true) : (makeInst i p).mb = p.mb.getD [] := whenRead_of_read h _

theorem makeInst_w (h : (readsOf i).w = true) : (makeInst i p).w = p.w.getD [] := whenRead_of_read h _

theorem makeInst_c (h : (readsOf i).c = true) : (makeInst i p).c = p.c.getD [] := whenRead_of_read h _

end

/-- R40 to R46, R191 (7): the sizes the row reads are positive. -/
theorem sizes_of_badParameter {i : Instr} {p : Params} (h : badParameter i p = false) :
    ((readsOf i).bitwidth = true → 1 ≤ (makeInst i p).bitwidth) ∧
      ((readsOf i).depth = true → 1 ≤ (makeInst i p).depth) ∧
      ((readsOf i).axis = true → 1 ≤ (makeInst i p).n ∧ 1 ≤ (makeInst i p).o) ∧
      ((readsOf i).lanes = true → 1 ≤ (makeInst i p).e) ∧ 1 ≤ (makeInst i p).batch := by
  simp only [badParameter, Bool.or_eq_false_iff, Bool.and_eq_false_imp, decide_eq_false_iff_not, not_le, not_lt] at h
  obtain ⟨⟨⟨⟨hb, hd⟩, ha⟩, he⟩, hk⟩ := h
  have hpos : ∀ {v : Int}, 1 ≤ v → 1 ≤ v.toNat := fun hv => by omega
  refine ⟨fun hr => ?_, fun hr => ?_, fun hr => ?_, fun hr => ?_, hpos hk⟩
  · rw [makeInst_bitwidth p hr]
    exact hpos (hb hr)
  · rw [makeInst_depth p hr]
    exact hpos (hd hr)
  · obtain ⟨hn, ho⟩ := ha hr
    rw [makeInst_n p hr, makeInst_o p hr]
    exact ⟨hpos hn, hpos ho⟩
  · rw [makeInst_e p hr]
    exact hpos (he hr)

/-- U13: every table the row reads is supplied; the second and the bias sequence have a default (R113, R135). -/
theorem tables_of_missingTable {i : Instr} {p : Params} (h : missingTable i p = false) :
    ((readsOf i).mux = true → p.muxSeq.getD [] ≠ []) ∧ ((readsOf i).mw = true → p.mw.isNone = false) ∧
      ((readsOf i).mb = true → p.mb.isNone = false) ∧ ((readsOf i).w = true → p.w.isNone = false) ∧
      ((readsOf i).c = true → p.c.isNone = false) := by
  simp only [missingTable, Bool.or_eq_false_iff, Bool.and_eq_false_imp] at h
  obtain ⟨⟨⟨⟨⟨⟨-, hmux⟩, -⟩, hmw⟩, hmb⟩, hw⟩, hc⟩ := h
  exact ⟨fun hr => by simpa using hmux hr, hmw, hmb, hw, hc⟩

/-- R60, U2: the sequence tables the row reads honour the contract. -/
theorem sequences_of_badSequence {i : Instr} {p : Params} (h : badSequence i p = false) :
    ((readsOf i).seq = true → legalSequence (makeInst i p).period (makeInst i p).seq = true) ∧
      ((readsOf i).seq0 = true → legalSequence (makeInst i p).period (makeInst i p).seq0 = true) ∧
      ((readsOf i).seqb = true → legalSequence (makeInst i p).period (makeInst i p).seqb = true) := by
  simp only [badSequence, Bool.or_eq_false_iff, Bool.and_eq_false_imp, Bool.not_eq_false'] at h
  obtain ⟨⟨hs, hs0⟩, hsb⟩ := h
  exact ⟨hs, hs0, hsb⟩

/-- R62, U1: every level is in `[0, P]`. -/
theorem levels_of_badLevel {i : Instr} {p : Params} (h : badLevel i p = false) :
    (∀ v ∈ (makeInst i p).m, legalLevel (makeInst i p).period v = true) ∧
      (∀ u ∈ (makeInst i p).mw, ∀ v ∈ u, legalLevel (makeInst i p).period v = true) ∧
      ∀ v ∈ (makeInst i p).mb, legalLevel (makeInst i p).period v = true := by
  simp only [badLevel, Bool.not_eq_false', Bool.and_eq_true, List.all_eq_true] at h
  obtain ⟨⟨hm, hmw⟩, hmb⟩ := h
  exact ⟨hm, hmw, hmb⟩

/-- R192: a supplied weight table that raises no error has its shape. -/
theorem hasShape2_of_weightShapeError {α : Type} {o n : Nat} {t : Option (List (List α))} (hsome : t.isNone = false)
    (h : weightShapeError o n t = none) : hasShape2 o n (t.getD []) = true := by
  cases t with
  | none => cases hsome
  | some t =>
    simp only [weightShapeError] at h
    split at h
    · assumption
    · cases h

theorem hasShape1_of_biasShapeError {α : Type} {o : Nat} {t : Option (List α)} (hsome : t.isNone = false)
    (h : biasShapeError o t = none) : hasShape1 o (t.getD []) = true := by
  cases t with
  | none => cases hsome
  | some t =>
    simp only [biasShapeError] at h
    split at h
    · assumption
    · cases h

/-- R192: no table that the row reads raises a shape error. -/
theorem shapeError_eq_none {i : Instr} {p : Params} (h : shapeError i p = none) :
    ((readsOf i).mw = true → weightShapeError p.o.toNat p.n.toNat p.mw = none) ∧
      ((readsOf i).w = true → weightShapeError p.o.toNat p.n.toNat p.w = none) ∧
      ((readsOf i).mb = true → biasShapeError p.o.toNat p.mb = none) ∧
      ((readsOf i).c = true → biasShapeError p.o.toNat p.c = none) := by
  simpa [shapeError, firstError_eq_none] using h

theorem wellFormed_of_badRounding {i : Instr} (h : badRounding i = false) : i.wellFormed = true := by
  cases i with
  | linHUB _ rnd | linFXP _ rnd => simpa [badRounding, Instr.wellFormed] using h
  | _ => rfl

/-- R43, R46, R64: which parameter belongs to which register. -/
theorem readsOf_of_ownsOf (i : Instr) :
    ((ownsOf i).acc = true → (readsOf i).axis = true) ∧ ((ownsOf i).racc = true → (readsOf i).depth = true) ∧
      ((ownsOf i).mc = true → (readsOf i).mux = true) := by
  cases i <;> simp [ownsOf, readsOf, Owns.none]

/-- R46, R62: the tables of the linear layer are shaped by `N` and `O`. -/
theorem readsOf_axis_of_table {i : Instr}
    (h : (readsOf i).mw = true ∨ (readsOf i).mb = true ∨ (readsOf i).w = true ∨ (readsOf i).c = true) :
    (readsOf i).axis = true := by
  cases i <;> simp_all [readsOf, Reads.none]

/-- R62, R192: the weight and bias tables the row reads are supplied with their shapes. -/
theorem shapes_of_shapeError {i : Instr} {p : Params} (hmissing : missingTable i p = false)
    (hshape : shapeError i p = none) :
    ((readsOf i).mw = true → hasShape2 (makeInst i p).o (makeInst i p).n (makeInst i p).mw = true) ∧
      ((readsOf i).mb = true → hasShape1 (makeInst i p).o (makeInst i p).mb = true) ∧
      ((readsOf i).w = true → hasShape2 (makeInst i p).o (makeInst i p).n (makeInst i p).w = true) ∧
      ((readsOf i).c = true → hasShape1 (makeInst i p).o (makeInst i p).c = true) := by
  obtain ⟨-, htmw, htmb, htw, htc⟩ := tables_of_missingTable hmissing
  obtain ⟨hsmw, hsw, hsmb, hsc⟩ := shapeError_eq_none hshape
  refine ⟨fun hr => ?_, fun hr => ?_, fun hr => ?_, fun hr => ?_⟩
  · have haxis := readsOf_axis_of_table (.inl hr)
    rw [makeInst_n p haxis, makeInst_o p haxis, makeInst_mw p hr]
    exact hasShape2_of_weightShapeError (htmw hr) (hsmw hr)
  · rw [makeInst_o p (readsOf_axis_of_table (.inr (.inl hr))), makeInst_mb p hr]
    exact hasShape1_of_biasShapeError (htmb hr) (hsmb hr)
  · have haxis := readsOf_axis_of_table (.inr (.inr (.inl hr)))
    rw [makeInst_n p haxis, makeInst_o p haxis, makeInst_w p hr]
    exact hasShape2_of_weightShapeError (htw hr) (hsw hr)
  · rw [makeInst_o p (readsOf_axis_of_table (.inr (.inr (.inr hr)))), makeInst_c p hr]
    exact hasShape1_of_biasShapeError (htc hr) (hsc hr)

/-- R156, R191 (4): the budgets are those of the budget rule where `more_res` is valid. -/
theorem budgets_of_badMoreRes {bias : Bool} {rf : RndField} {keep : KeepField} {more : MoreField} {p : Params}
    (h : badMoreRes (.linFXP bias rf keep more) p = false) :
    fxpBudgets p.bitwidth.toNat keep more =
      some ((makeInst (.linFXP bias rf keep more) p).bi, (makeInst (.linFXP bias rf keep more) p).bw) := by
  obtain ⟨v, hv⟩ : ∃ v, fxpBudgets p.bitwidth.toNat keep more = some v :=
    Option.isSome_iff_exists.1 (Option.isNone_eq_false_iff.1 h)
  simp [makeInst, readsOf, whenRead, hv]

/-- R181: a construction in which no check fails makes a legal unit. -/
theorem makeInst_legal {i : Instr} {p : Params} (hk : inputKind i ≠ .nothing) (hconf : configError i p = none)
    (hshape : shapeError i p = none) (href : constructRefusal i p = none) : (makeInst i p).Legal := by
  obtain ⟨-, hround, hparam, hdepth, hmore⟩ := configError_eq_none.1 hconf
  obtain ⟨hmissing, hseq, hlength, hlevel⟩ := constructRefusal_eq_none.1 href
  obtain ⟨hbitwidth, hdep, haxis, hlanes, hbatch⟩ := sizes_of_badParameter hparam
  obtain ⟨hs, hs0, hsb⟩ := sequences_of_badSequence hseq
  obtain ⟨hm, hmw, hmb⟩ := levels_of_badLevel hlevel
  obtain ⟨hshapemw, hshapemb, hw, hc⟩ := shapes_of_shapeError hmissing hshape
  obtain ⟨hacc, hracc, hmc⟩ := readsOf_of_ownsOf i
  have hmux : (readsOf i).mux = true → (makeInst i p).muxSeq ≠ [] := fun h => by
    rw [makeInst_muxSeq p h]
    exact (tables_of_missingTable hmissing).1 h
  refine
    { operation := hk, fields := wellFormed_of_badRounding hround, batch := hbatch, axis := haxis, lanes := hlanes
      bitwidth := hbitwidth, depth := hdep, smoothDepth := fun h => ?smoothDepth, seq := hs, seq0 := hs0, seqb := hsb
      mux := hmux, m := fun h => ⟨?m, hm⟩, mw := fun h => ⟨hshapemw h, hmw⟩, mb := fun h => ⟨hshapemb h, hmb⟩
      w := hw, c := hc, lut := fun bias rf h => ?lut, budgets := fun bias rf keep more h => ?budgets
      regs := resetRegs_legal rfl (fun h => (haxis (hacc h)).1) (fun h => hdep (hracc h)) (fun h => hmux (hmc h))
      status := .inl ⟨rfl, rfl⟩ }
  case smoothDepth =>
    obtain rfl : i = .reluSR := h
    have hle : p.depth ≤ 127 := not_lt.1 (of_decide_eq_false hdepth)
    rw [makeInst_depth p rfl]
    omega
  case m => simpa [badLevelLength, show (readsOf i).m = true from h] using hlength
  case lut =>
    obtain rfl : i = .linHUB bias rf := h
    rfl
  case budgets =>
    obtain rfl : i = .linFXP bias rf keep more := h
    exact budgets_of_badMoreRes hmore

/-- R181, R83: whatever descriptor it was given, CONSTRUCT makes only legal units. -/
theorem legal_of_buildDesc {d : Desc} {p : Params} {n : Inst} (h : buildDesc d p = .made n) : n.Legal := by
  unfold buildDesc at h
  split at h
  · cases h
  · rename_i i hi
    obtain ⟨hconf, hshape, href, rfl⟩ := (build_made_iff i p n).1 h
    obtain ⟨hrow, -⟩ := configError_eq_none.1 hconf
    exact makeInst_legal (inputKind_of_decodeDesc hi hrow) hconf hshape href

/-! ### Every step keeps every unit legal -/

/-- A unit afterwards is an old one, a constructed one, or an old one changed by its command. -/
theorem InstsChange.legal {l l' : List Inst} (h : InstsChange l l') (hl : ∀ n ∈ l, n.Legal) : ∀ n ∈ l', n.Legal := by
  intro n hn
  cases h with
  | same => exact hl n hn
  | made hmade =>
    rcases List.mem_append.1 hn with hold | hnew
    · exact hl n hold
    · rw [List.mem_singleton.1 hnew]
      exact legal_of_buildDesc hmade
  | changed hm _ hch =>
    rcases List.mem_or_eq_of_mem_set hn with hold | rfl
    · exact hl n hold
    · exact (hl _ (List.mem_of_getElem? hm)).of_changes hch

/-- Settles O8, by the inversion of a step: each way a unit can come about makes it legal. -/
theorem stepKeepsInstancesLegal : Obligations.StepKeepsInstancesLegal :=
  fun _ _ hlegal hstep => (step_insts hstep).legal hlegal

/-! ### The reset values -/

section

variable {α : Type} [Inhabited α] (own : Bool)

theorem at1_whenRead_tab1_default (r i : Nat) : at1 (whenRead own (tab1 r fun _ => (default : α))) i = default := by
  cases own with
  | false => rfl
  | true =>
    by_cases hi : i < r
    · exact at1_tab1 _ hi
    · exact at1_of_le (by simpa [whenRead] using hi)

/-- A register of default values answers the default value, inside its shape and outside. -/
theorem at2_whenRead_tab2_default (r c i j : Nat) :
    at2 (whenRead own (tab2 r c fun _ _ => (default : α))) i j = default := by
  cases own with
  | false => rfl
  | true =>
    by_cases hi : i < r
    · rw [at2, whenRead_of_read rfl, tab2, at1_tab1 _ hi]
      exact at1_whenRead_tab1_default true c j
    · have hrow : at1 (whenRead true (tab2 r c fun _ _ => (default : α))) i = [] :=
        at1_of_le (by simpa [whenRead, tab2] using hi)
      rw [at2, hrow]
      rfl

theorem at3_whenRead_tab3_default (r c d i j k : Nat) :
    at3 (whenRead own (tab3 r c d fun _ _ _ => (default : α))) i j k = default := by
  cases own with
  | false => rfl
  | true =>
    by_cases hi : i < r
    · rw [at3, at2, whenRead_of_read rfl, tab3, at1_tab1 _ hi]
      exact at2_whenRead_tab2_default true c d j k
    · have hrow : at1 (whenRead true (tab3 r c d fun _ _ _ => (default : α))) i = [] :=
        at1_of_le (by simpa [whenRead, tab3] using hi)
      rw [at3, at2, hrow]
      rfl

end

theorem hasShape2_whenRead_tab2 {α : Type} {own : Bool} {r c : Nat} {f : Nat → Nat → α} (hown : own = true) :
    hasShape2 r c (whenRead own (tab2 r c f)) = true := by
  rw [whenRead_of_read hown]
  exact hasShape2_tab2 r c f

theorem hasShape3_whenRead_tab3 {α : Type} {own : Bool} {r c d : Nat} {f : Nat → Nat → Nat → α}
    (hown : own = true) : hasShape3 r c d (whenRead own (tab3 r c d f)) = true := by
  rw [whenRead_of_read hown]
  exact hasShape3_tab3 r c d f

/-- Settles O21: the registers of a constructed unit are those of `resetRegs`, read lane by lane. -/
theorem constructedRegistersAreReset : Obligations.ConstructedRegistersAreReset := by
  intro i p n hmade
  obtain ⟨-, -, -, rfl⟩ := (build_made_iff i p n).1 hmade
  refine ⟨fun b l => ⟨at2_whenRead_tab2_default _ _ _ b l, at2_whenRead_tab2_default _ _ _ b l,
      at2_whenRead_tab2_default _ _ _ b l, at2_whenRead_tab2_default _ _ _ b l, at2_whenRead_tab2_default _ _ _ b l,
      at2_whenRead_tab2_default _ _ _ b l, at2_whenRead_tab2_default _ _ _ b l, at1_whenRead_tab1_default _ _ l⟩,
    fun b o l => ⟨at3_whenRead_tab3_default _ _ _ _ b o l, at3_whenRead_tab3_default _ _ _ _ b o l⟩,
    rfl, rfl, rfl, rfl, hasShape2_whenRead_tab2, hasShape2_whenRead_tab2, hasShape2_whenRead_tab2,
    fun h => ⟨hasShape2_whenRead_tab2 h, hasShape2_whenRead_tab2 h⟩, hasShape3_whenRead_tab3, hasShape3_whenRead_tab3,
    fun h => ?_, hasShape2_whenRead_tab2, hasShape2_whenRead_tab2, ?_, ?_⟩
  · show (whenRead (ownsOf i).cb (tab1 _ _)).length = _
    rw [whenRead_of_read h, tab1_length]
    rfl
  · rintro rfl b l hb hl
    exact at2_tab2 _ hb hl
  · rintro rfl
    exact ⟨rfl, fun b l hb hl => at2_tab2 _ hb hl⟩

/-! ### The non-scaled adders -/

/-- One cycle of a non-scaled adder: the stage lane by lane, for any `2·offset` (R122, R123). -/
theorem nonscaledStage_cycle {s : State} {i : Instr} {c : Command} {n : Inst} {x : Inputs} {offset2 : Int}
    {body : Inst → Inputs → CycleResult} (hrun : Running s i c n x) (hbody : bodyOf i = some body)
    (hstage : body n x = nonscaledStage n offset2 (axisCount n x) n.regs) :
    ∃ (y : List (List Bool)) (acc2 : List (List Int)) (oacc : List (List Nat)),
      exec i s = .next (afterCycle s c n { n.regs with acc2 := acc2, oacc := oacc } (.bits y)) ∧
      hasShape2 n.batch n.o y = true ∧ hasShape2 n.batch n.o acc2 = true ∧ hasShape2 n.batch n.o oacc = true ∧
      ∀ b o, b < n.batch → o < n.o →
        at2 acc2 b o = nonscaledSum offset2 (at2 n.regs.acc2 b o) (axisCount n x b o) ∧
        at2 y b o = nonscaledOut offset2 (at2 n.regs.acc2 b o) (at2 n.regs.oacc b o) (axisCount n x b o) ∧
        at2 oacc b o = nonscaledOacc offset2 (at2 n.regs.acc2 b o) (at2 n.regs.oacc b o) (axisCount n x b o) :=
  ⟨_, _, _, by rw [exec_eq_cycle hbody, cycle_commit hrun hstage], hasShape2_tab2 .., hasShape2_tab2 ..,
    hasShape2_tab2 .., fun _ _ hb ho => ⟨at2_tab2 _ hb ho, at2_tab2 _ hb ho, at2_tab2 _ hb ho⟩⟩

/-- The rule of either non-scaled adder is the non-scaled stage with its offset. -/
theorem exists_body_nonscaledStage {i : Instr} {offset2 : Int} {n : Inst}
    (h : i = .addNSU ∧ offset2 = 0 ∨ i = .addNSB ∧ offset2 = (n.n : Int) - 1) (x : Inputs) :
    ∃ body, bodyOf i = some body ∧ body n x = nonscaledStage n offset2 (axisCount n x) n.regs := by
  rcases h with ⟨rfl, rfl⟩ | ⟨rfl, rfl⟩
  · exact ⟨addNsuBody, rfl, rfl⟩
  · exact ⟨addNsbBody, rfl, rfl⟩

/-- Settles O34: the lane equations of the stage, with the sums written out. -/
theorem nonscaledAddCycle : Obligations.NonscaledAddCycle := by
  refine ⟨selectedBy_addNSU, selectedBy_addNSB, fun i offset2 s c n x hrun hi => ?_⟩
  obtain ⟨body, hbody, hstage⟩ := exists_body_nonscaledStage hi x
  obtain ⟨y, acc2, oacc, hexec, hy, hacc, hoacc, hlanes⟩ := nonscaledStage_cycle hrun hbody hstage
  refine ⟨y, acc2, oacc, hexec, hy, hacc, hoacc, fun b o hb ho => ?_⟩
  obtain ⟨hlacc, hly, hloacc⟩ := hlanes b o hb ho
  exact ⟨hlacc, hly, by rw [hloacc, hly]; rfl⟩

/-- R25: after a window of counts, from any pair. -/
theorem nonscaledRun_bounds (offset2 : Int) (r : Int × Nat) (counts : List Nat) :
    (nonscaledRun offset2 r counts).1 = r.1 + 2 * (counts.sum : Int) - counts.length * offset2 ∧
      (nonscaledRun offset2 r counts).2 ≤ r.2 + counts.length := by
  induction counts generalizing r with
  | nil => simp [nonscaledRun]
  | cons k ks ih =>
    obtain ⟨hacc, hoacc⟩ := ih (nonscaledSum offset2 r.1 k, nonscaledOacc offset2 r.1 r.2 k)
    have hbit := bitNat_le_one (nonscaledOut offset2 r.1 r.2 k)
    simp only [nonscaledSum] at hacc
    simp only [nonscaledOacc] at hoacc
    refine ⟨?_, ?_⟩
    · simp only [nonscaledRun, nonscaledSum, nonscaledOacc, List.sum_cons, List.length_cons] at hacc ⊢
      rw [hacc]
      push_cast
      ring
    · simp only [nonscaledRun, nonscaledOacc, List.length_cons] at hoacc ⊢
      omega

/-- Settles O39: the totals by induction on the cycles, the bounds from one cycle's comparison. -/
theorem outAccumulatorFollowsTheAccumulator : Obligations.OutAccumulatorFollowsTheAccumulator := by
  refine ⟨fun offset2 counts => ?_, fun offset2 acc2 oacc k => ⟨fun hout => ?_, fun hout => ?_⟩⟩
  · simpa using nonscaledRun_bounds offset2 (0, 0) counts
  · rw [nonscaledOacc, hout]
    have hlt := of_decide_eq_true hout
    simp only [bitNat, Bool.toNat_true]
    omega
  · rw [nonscaledOacc, hout]
    have hle := of_decide_eq_false hout
    simp only [bitNat, Bool.toNat_false]
    omega

/-! ### RELU.SR -/

theorem build_of_configError {i : Instr} {p : Params} {cause : ConfigCause} (h : configError i p = some cause) :
    build i p = .failed (.configuration cause) := by
  rw [build, h]

theorem srPop_add_evicted {ring : List Bool} {pop : Nat} (y : Bool) (hpop : pop = ring.count true) :
    srPop ring pop y + (at1 ring 0).toNat = pop + y.toNat := by
  have hev : (at1 ring 0).toNat ≤ pop := by
    subst hpop
    cases ring with
    | nil => exact Nat.le_refl 0
    | cons ev rest => cases ev <;> simp [at1]
  simp only [srPop, bitNat]
  omega

theorem srOut_eq (first : Bool) (depth pop : Nat) (x : Bool) :
    srOut first depth pop x = (first || x || decide (2 * pop < depth)) := by
  cases first <;> rfl

/-- Settles O57: the lane equations of the cycle, with the count's facts from the legality of the registers. -/
theorem smoothedReluCycle : Obligations.SmoothedReluCycle := by
  refine ⟨selectedBy_reluSR, fun p hd => build_of_configError ?_, fun p hd he hb => build_of_configError ?_,
    fun s c n x hlegal hrun => ?_⟩
  · simp [configError, illegalRow, badRounding, badParameter, readsOf, hd]
  · have hparam : badParameter .reluSR p = false := by
      simp [badParameter, readsOf, Reads.none]
      omega
    have hdepth : badDepth .reluSR p = true := decide_eq_true hd
    simp [configError, illegalRow, badRounding, hparam, hdepth]
  · have hring : (ownsOf n.op).ring = true := by rw [hrun.performs]; rfl
    have hdepth : 1 ≤ n.depth := hlegal.depth (by rw [hrun.performs]; rfl)
    refine ⟨_, _, _, (exec_eq_cycle rfl s).trans (cycle_commit hrun rfl), hasShape2_tab2 .., hasShape2_tab2 ..,
      hasShape2_tab2 .., fun b l hb hl => ?_⟩
    have hlen := hlegal.regs.ring.lane hring hb hl
    have hpop := hlegal.regs.pop.lane hring hb hl
    have hne : at2 n.regs.ring b l ≠ [] := fun hnil => by
      rw [hnil] at hlen
      simp only [List.length_nil] at hlen
      omega
    simp only [at2_tab2 _ hb hl]
    exact ⟨srOut_eq .., by rw [srPush, List.drop_one], srPop_add_evicted _ hpop, srPop_eq_count _ hne hpop⟩

end Sys2Proof.Machine

/-! PROOFS of the memory family (`spec/20_memory.md`): the units share no state (R71 item 4). What a STEP or REPLACE
does is said once as a function of the unit it addresses and of its inputs (`AnswersBy`): the frame of a command and
the exchange of two commands are read off it. The cycle of ADD.GMUX, which reads its index table (R64), stands at the
end. -/

namespace Sys2Proof.Machine

/-! ### A command that acts on one unit -/

/-- The state with the unit at a handle, if there is one, rewritten. -/
def modifyInst (s : State) (k : Nat) (f : Inst → Inst) : State := { s with insts := s.insts.modify k f }

theorem modifyInst_id (s : State) (k : Nat) : modifyInst s k id = s := by
  rw [modifyInst, List.modify_id]

theorem modifyInst_const {s : State} {k : Nat} {n : Inst} (hn : s.insts[k]? = some n) (m : Inst) :
    modifyInst s k (fun _ => m) = setInst s k m := by
  simp [modifyInst, setInst, List.modify_eq_set_getElem?, hn]

/-- In every state that presents `c`, holds `o` at its handle and has `x` for its inputs, `run` rewrites the
addressed unit by `f`, touches no other, and answers `r`: all that `run` reads of the state is `o` and `x`. -/
def AnswersBy (run : State → Host.Outcome State Fault Refusal) (c : Command) (o : Option Inst) (x : Option Inputs)
    (f : Inst → Inst) (r : Response) : Prop :=
  ∀ s : State, s.commands.head? = some c → s.insts[c.inst]? = o → c.feed.resolve s.reports = x →
    run s = .next (answer (modifyInst s c.inst f) c r)

section
variable {run : State → Host.Outcome State Fault Refusal} {c : Command} {o : Option Inst} {x : Option Inputs}

theorem AnswersBy.of_decline {why : Decline}
    (h : ∀ s : State, s.commands.head? = some c → s.insts[c.inst]? = o → c.feed.resolve s.reports = x →
      run s = decline s c why) : AnswersBy run c o x id (.declined why) := fun s hc ho hx => by
  rw [h s hc ho hx, modifyInst_id]
  rfl

theorem AnswersBy.of_setInst {n m : Inst} {r : Response}
    (h : ∀ s : State, s.commands.head? = some c → s.insts[c.inst]? = some n → c.feed.resolve s.reports = x →
      run s = .next (answer (setInst s c.inst m) c r)) : AnswersBy run c (some n) x (fun _ => m) r :=
  fun s hc hn hx => by rw [h s hc hn hx, modifyInst_const hn]

end

theorem cycle_of_dead {s : State} {i : Instr} {c : Command} {n : Inst} (body : Inst → Inputs → CycleResult)
    (hc : s.commands.head? = some c) (hn : s.insts[c.inst]? = some n) (hdead : n.dead = true) :
    cycle i body s = decline s c .deadInstance := by
  rw [cycle, commands_eq_cons hc]
  simp only [hn, Inst.isDead, hdead, if_true]

theorem cycle_of_no_inputs {s : State} {c : Command} {n : Inst} (body : Inst → Inputs → CycleResult)
    (hc : s.commands.head? = some c) (hn : s.insts[c.inst]? = some n) (hlive : n.dead = false)
    (hx : c.feed.resolve s.reports = none) : cycle n.op body s = decline s c .noProducerOutput := by
  rw [cycle, commands_eq_cons hc]
  simp only [hn, Inst.isDead, hlive, hx, ne_eq, not_true_eq_false, Bool.false_eq_true, if_false]

/-- A cycle of the addressed unit's own operation depends on that unit and on the inputs only. -/
theorem cycle_answersBy (c : Command) (n : Inst) (x : Option Inputs) (body : Inst → Inputs → CycleResult) :
    ∃ f r, AnswersBy (cycle n.op body) c (some n) x f r := by
  cases hdead : n.dead with
  | true => exact ⟨_, _, .of_decline fun s hc hn _ => cycle_of_dead body hc hn hdead⟩
  | false =>
    cases x with
    | none => exact ⟨_, _, .of_decline fun s hc hn hx => cycle_of_no_inputs body hc hn hdead hx⟩
    | some x =>
      cases hm : n.admitted x with
      | error why => exact ⟨_, _, .of_decline fun s hc hn hx => cycle_of_not_admitted body hc hn hdead hx hm⟩
      | ok m =>
        cases hres : body m x with
        | commit r y =>
          refine ⟨_, _, .of_setInst (m := { m with regs := r }) (r := .stepped y) fun s hc hn hx => ?_⟩
          rw [cycle_of_admitted body hc hn hdead hx hm, hres]
          rfl
        | raise e =>
          refine ⟨_, _, .of_setInst (m := killed n e) (r := .failed e) fun s hc hn hx => ?_⟩
          rw [cycle_of_admitted body hc hn hdead hx hm, hres]
          simp only [raiseError, hn]

theorem execReplace_answersBy (c : Command) (o : Option Inst) (x : Option Inputs) :
    ∃ f r, AnswersBy execReplace c o x f r := by
  cases o with
  | none =>
    refine ⟨_, _, .of_decline (why := .noInstance) fun s hc hn _ => ?_⟩
    rw [execReplace, commands_eq_cons hc]
    simp only [hn]
  | some n =>
    cases hdead : n.dead with
    | true =>
      refine ⟨_, _, .of_decline (why := .deadInstance) fun s hc hn _ => ?_⟩
      rw [execReplace, commands_eq_cons hc]
      simp only [hn, Inst.isDead, hdead, if_true]
    | false =>
      cases hrep : replaceTable n c.which c.table with
      | error why =>
        refine ⟨_, _, .of_decline (why := why) fun s hc hn _ => ?_⟩
        rw [execReplace, commands_eq_cons hc]
        simp only [hn, Inst.isDead, hdead, hrep, Bool.false_eq_true, if_false]
      | ok m =>
        refine ⟨_, _, .of_setInst (m := m) (r := .replaced) fun s hc hn _ => ?_⟩
        rw [execReplace, commands_eq_cons hc]
        simp only [hn, Inst.isDead, hdead, hrep, Bool.false_eq_true, if_false]

theorem execStep_answersBy (c : Command) (o : Option Inst) (x : Option Inputs)
    (hrule : ∀ n ∈ o, ∃ body, bodyOf n.op = some body) : ∃ f r, AnswersBy execStep c o x f r := by
  cases o with
  | none =>
    refine ⟨_, _, .of_decline (why := .noInstance) fun s hc hn _ => ?_⟩
    rw [execStep, commands_eq_cons hc]
    simp only [hn]
  | some n =>
    obtain ⟨body, hbody⟩ := hrule n rfl
    obtain ⟨f, r, hcycle⟩ := cycle_answersBy c n x body
    refine ⟨f, r, fun s hc hn hx => ?_⟩
    rw [execStep, commands_eq_cons hc]
    simp only [hn]
    rw [runOperation_eq_cycle hbody]
    exact hcycle s hc hn hx

theorem step_of_presented {s : State} {c : Command} (hc : s.commands.head? = some c) :
    step s = exec (decodeCmd c.code) s := by
  rw [step, fetch, commands_eq_cons hc]

/-- R71 item 4: a STEP or REPLACE reads and writes no unit but the one it addresses. -/
theorem step_answersBy {c : Command} {o : Option Inst} (hcode : c.code = 1 ∨ c.code = 2) (x : Option Inputs)
    (hlegal : ∀ n ∈ o, n.Legal) : ∃ f r, AnswersBy step c o x f r := by
  rcases hcode with hcode | hcode
  · obtain ⟨f, r, h⟩ := execStep_answersBy c o x fun n hn => exists_bodyOf_of_legal (hlegal n hn)
    refine ⟨f, r, fun s hc ho hx => ?_⟩
    rw [step_of_presented hc, hcode]
    exact h s hc ho hx
  · obtain ⟨f, r, h⟩ := execReplace_answersBy c o x
    refine ⟨f, r, fun s hc ho hx => ?_⟩
    rw [step_of_presented hc, hcode]
    exact h s hc ho hx

/-! ### The frame of a command -/

/-- What a command that completes makes of the state: it is retired and answered once, and the units are the old
ones, or the addressed one is rewritten, or a CONSTRUCT adds one at the end. -/
inductive Answered (s : State) (c : Command) : State → Prop
  | unchanged (r : Response) : Answered s c (answer s c r)
  | rewritten (hcode : c.code ≠ 0) (f : Inst → Inst) (r : Response) :
      Answered s c (answer (modifyInst s c.inst f) c r)
  | constructed (hcode : c.code = 0) (n : Inst) (r : Response) :
      Answered s c (answer { s with insts := s.insts ++ [n] } c r)

theorem AnswersBy.answered {run : State → Host.Outcome State Fault Refusal} {s t : State} {c : Command}
    {f : Inst → Inst} {r : Response}
    (h : AnswersBy run c s.insts[c.inst]? (c.feed.resolve s.reports) f r) (hcode : c.code ≠ 0)
    (hc : s.commands.head? = some c) (ht : run s = .next t) : Answered s c t := by
  cases (h s hc rfl rfl).symm.trans ht
  exact .rewritten hcode f r

theorem execConstruct_answered {s t : State} {c : Command} (hcode : c.code = 0) (hc : s.commands.head? = some c)
    (ht : execConstruct s = .next t) : Answered s c t := by
  rw [execConstruct, commands_eq_cons hc] at ht
  cases hbuild : buildDesc c.desc c.params with
  | failed e =>
    simp only [hbuild] at ht
    cases ht
    exact .unchanged _
  | refused why =>
    simp only [hbuild] at ht
    cases ht
    exact .unchanged _
  | made n =>
    simp only [hbuild] at ht
    cases ht
    exact .constructed hcode n _

/-- Of any unit, legal or not: one of an operation without a rule is left as it is (R84 (b), (c)). -/
theorem execStep_answered {s t : State} {c : Command} (hcode : c.code ≠ 0) (hc : s.commands.head? = some c)
    (ht : execStep s = .next t) : Answered s c t := by
  by_cases hrule : ∀ n ∈ s.insts[c.inst]?, ∃ body, bodyOf n.op = some body
  · obtain ⟨f, r, h⟩ := execStep_answersBy c _ (c.feed.resolve s.reports) hrule
    exact h.answered hcode hc ht
  · push Not at hrule
    obtain ⟨n, hn, hno⟩ := hrule
    have hnone : bodyOf n.op = none := Option.eq_none_iff_forall_ne_some.2 hno
    rw [execStep, commands_eq_cons hc] at ht
    simp only [Option.mem_def.1 hn] at ht
    rcases runOperation_of_bodyOf_none hnone s with hf | ⟨cause, hr⟩
    · cases hf.symm.trans ht
    · have hraise := hr.symm.trans ht
      rw [raiseConfiguration, commands_eq_cons hc] at hraise
      cases hraise
      exact .unchanged _

theorem code_cases (k : CmdCode) : k = 0 ∨ k = 1 ∨ k = 2 ∨ k = 3 := by
  revert k
  decide

/-- The inversion of a step that executes a command, on the whole state. -/
theorem step_answered {s t : State} {c : Command} (hc : s.commands.head? = some c) (ht : step s = .next t) :
    Answered s c t := by
  rw [step_of_presented hc] at ht
  rcases code_cases c.code with hcode | hcode | hcode | hcode <;> rw [hcode] at ht
  · exact execConstruct_answered hcode hc ht
  · exact execStep_answered (by rw [hcode]; decide) hc ht
  · obtain ⟨f, r, h⟩ := execReplace_answersBy c s.insts[c.inst]? (c.feed.resolve s.reports)
    exact h.answered (by rw [hcode]; decide) hc ht
  · change execCmdReserved s = .next t at ht
    rw [execCmdReserved, commands_eq_cons hc] at ht
    cases ht
    exact .unchanged _

/-- Settles O10: a rewriting leaves every other handle as it is, and appending leaves them all. -/
theorem commandTouchesOnlyTheAddressedInstance : Obligations.CommandTouchesOnlyTheAddressedInstance := by
  intro s t c hc hstep
  cases step_answered hc hstep with
  | unchanged r => exact ⟨rfl, ⟨r, rfl⟩, fun _ _ _ => rfl, .inl rfl⟩
  | rewritten hcode f r =>
    refine ⟨rfl, ⟨r, rfl⟩, fun k _ hk => ?_, .inl (List.length_modify ..)⟩
    have hne : c.inst ≠ k := (hk.resolve_left hcode).symm
    exact List.getElem?_modify_ne f s.insts hne
  | constructed hcode n r =>
    exact ⟨rfl, ⟨r, rfl⟩, fun k hk _ => List.getElem?_append_left hk, .inr ⟨hcode, List.length_append⟩⟩

/-! ### The order of two commands -/

/-- Two commands to different units, one after the other: the first leaves the second's unit as it was. -/
theorem AnswersBy.two_steps {s : State} {a b : Command} {x y : Option Inputs} {f g : Inst → Inst} {ra rb : Response}
    (ha : AnswersBy step a s.insts[a.inst]? x f ra) (hb : AnswersBy step b s.insts[b.inst]? y g rb)
    (hx : ∀ reports, a.feed.resolve reports = x) (hy : ∀ reports, b.feed.resolve reports = y)
    (hne : a.inst ≠ b.inst) :
    ∃ t, step { s with commands := [a, b] } = .next t ∧
      step t = .next
        { insts := (s.insts.modify a.inst f).modify b.inst g
          commands := []
          reports := { code := b.code, inst := b.inst, response := rb } ::
            { code := a.code, inst := a.inst, response := ra } :: s.reports } :=
  ⟨_, ha _ rfl rfl (hx _), hb _ rfl (List.getElem?_modify_ne f s.insts hne) (hy _)⟩

/-- Settles O11: rewritings at different handles commute, and what each command does depends on its own unit. -/
theorem commandsToDifferentInstancesCommute : Obligations.CommandsToDifferentInstancesCommute := by
  rintro s a b hlegal hcodea hcodeb hne ⟨x, hx⟩ ⟨y, hy⟩
  have hunit : ∀ (k : Nat) (n : Inst), n ∈ s.insts[k]? → n.Legal :=
    fun _ n hn => hlegal n (List.mem_of_getElem? hn)
  obtain ⟨f, ra, ha⟩ := step_answersBy hcodea (some x) (hunit a.inst)
  obtain ⟨g, rb, hb⟩ := step_answersBy hcodeb (some y) (hunit b.inst)
  have hgivena : ∀ reports, a.feed.resolve reports = some x := fun _ => by rw [hx]; rfl
  have hgivenb : ∀ reports, b.feed.resolve reports = some y := fun _ => by rw [hy]; rfl
  obtain ⟨t, ht, ht'⟩ := ha.two_steps hb hgivena hgivenb hne
  obtain ⟨u, hu, hu'⟩ := hb.two_steps ha hgivenb hgivena hne.symm
  exact ⟨t, _, u, _, ra, rb, ht, ht', hu, hu', List.modify_modify_ne f g s.insts hne, rfl, rfl, rfl, rfl⟩

/-! ### The MUX index -/

theorem selectedBy_addGMUX : SelectedBy .addGMUX 0xFE80 0x2280 := fun d => by
  simp [decodeDesc_eq_ok_iff, descRows, Row.selects]

theorem addGmuxBody_of_lt {n : Inst} (x : Inputs) (hj : at1 n.muxSeq n.regs.mc < n.n) :
    addGmuxBody n x = .commit { n.regs with mc := (n.regs.mc + 1) % n.muxSeq.length }
      (.bits (tab2 n.batch n.o fun b o => x.axis b (at1 n.muxSeq n.regs.mc) o)) :=
  if_neg (Nat.not_le.2 hj)

/-- Settles O35: with the index in range the rule commits, and its output is the selected lane by construction. -/
theorem muxAddSelectsTheIndexedLane : Obligations.MuxAddSelectsTheIndexedLane := by
  refine ⟨selectedBy_addGMUX, fun s c n x hrun hj => ?_⟩
  have hexec := (exec_eq_cycle rfl s).trans (cycle_commit hrun (addGmuxBody_of_lt x hj))
  exact ⟨_, hexec, hasShape2_tab2 .., fun b o hb ho => at2_tab2 _ hb ho⟩

end Sys2Proof.Machine

/-! PROOFS of the encoding family (`spec/30_encoding.md`): decoder and encoder agree, exactly the reserved
descriptors are rejected, a step runs the decoded command, and what CONSTRUCT makes of a descriptor and its
parameter record: the ConfigurationErrors in their order, and no effect of a parameter that is not read. -/

namespace Sys2Proof

/-! ### The fields of a descriptor -/

/-- A mask on the field of `len` bits from bit `start` leaves that field in its place. -/
theorem and_fieldMask {w : Nat} (d : BitVec w) (start len : Nat) :
    d &&& (BitVec.allOnes len).setWidth w <<< start = (d.extractLsb' start len).setWidth w <<< start := by
  ext k hk
  by_cases hlow : k < start
  · simp [hlow]
  · have hadd : start + (k - start) = k := by omega
    by_cases hhigh : k - start < len
    · simp [hlow, hhigh, hadd, BitVec.getLsbD_eq_getElem hk]
    · simp [hlow, hhigh]

theorem flagBit_flagOf (d : Desc) (k : Nat) : flagBit k (flagOf d k) = d &&& 1 <<< k :=
  (BitVec.and_twoPow d k).symm

theorem rndBits_rndOf (d : Desc) : rndBits (rndOf d) = d &&& (0x0018 : Desc) := by
  have hfield : d &&& (0x0018 : Desc) = (d.extractLsb' 3 2).setWidth 16 <<< 3 := and_fieldMask d 3 2
  rw [hfield, rndOf]
  generalize d.extractLsb' 3 2 = code
  revert code
  decide

theorem keepBits_keepOf (d : Desc) : keepBits (keepOf d) = d &&& (0x0004 : Desc) := by
  have hfield : flagBit 2 (flagOf d 2) = d &&& (0x0004 : Desc) := flagBit_flagOf d 2
  rw [← hfield, keepOf]
  cases flagOf d 2 <;> rfl

theorem moreBits_moreOf (d : Desc) : moreBits (moreOf d) = d &&& (0x0003 : Desc) := by
  have hfield : d &&& (0x0003 : Desc) = (d.extractLsb' 0 2).setWidth 16 <<< 0 := and_fieldMask d 0 2
  rw [hfield, moreOf]
  generalize d.extractLsb' 0 2 = code
  revert code
  decide

/-! ### Decode and encode

A row's word is its pattern with the fields it reads put back in their places (R82). -/

section

variable {d mask pat : Desc}

theorem fixedRow_word (h : d &&& mask = pat) : CodeWord.desc16 pat = .desc16 (d &&& mask) := by rw [h]

theorem linExactRow_word (h : d &&& (0xFF40 : Desc) = pat) :
    CodeWord.desc16 (pat ||| flagBit 7 (scaledOf d) ||| flagBit 5 (biasOf d)) =
      .desc16 (d &&& (0xFFE0 : Desc)) := by
  rw [scaledOf, biasOf, flagBit_flagOf, flagBit_flagOf, ← h, ← BitVec.and_or_distrib_left,
    ← BitVec.and_or_distrib_left]
  rfl

theorem linHubRow_word (h : d &&& (0xFE00 : Desc) = pat) :
    CodeWord.desc16 (pat ||| flagBit 5 (biasOf d) ||| rndBits (rndOf d)) = .desc16 (d &&& (0xFE38 : Desc)) := by
  rw [biasOf, flagBit_flagOf, rndBits_rndOf, ← h, ← BitVec.and_or_distrib_left, ← BitVec.and_or_distrib_left]
  rfl

theorem linFxpRow_word (h : d &&& (0xFE00 : Desc) = pat) :
    CodeWord.desc16 (pat ||| flagBit 5 (biasOf d) ||| rndBits (rndOf d) ||| keepBits (keepOf d) |||
      moreBits (moreOf d)) = .desc16 (d &&& (0xFE3F : Desc)) := by
  rw [biasOf, flagBit_flagOf, rndBits_rndOf, keepBits_keepOf, moreBits_moreOf, ← h,
    ← BitVec.and_or_distrib_left, ← BitVec.and_or_distrib_left, ← BitVec.and_or_distrib_left,
    ← BitVec.and_or_distrib_left]
  rfl

end

theorem encode_build_of_selects (d : Desc) :
    ∀ r ∈ descRows, r.selects d = true → encode (r.build d) = .desc16 (d &&& usedBits (r.build d)) := by
  simp only [descRows, List.forall_mem_cons, Row.selects, beq_iff_eq]
  exact ⟨fixedRow_word, fixedRow_word, fixedRow_word, fixedRow_word, fixedRow_word, fixedRow_word, fixedRow_word,
    fixedRow_word, fixedRow_word, fixedRow_word, fixedRow_word, fixedRow_word, fixedRow_word,
    linExactRow_word, linExactRow_word, linExactRow_word, linExactRow_word, linHubRow_word, linFxpRow_word,
    fixedRow_word, fixedRow_word, fixedRow_word, nofun⟩

theorem encode_of_decodeDesc {d : Desc} {i : Instr} (h : decodeDesc d = .ok i) :
    encode i = .desc16 (d &&& usedBits i) := by
  obtain ⟨r, hr, hsel, rfl⟩ := decodeDesc_eq_ok_iff.1 h
  exact encode_build_of_selects d r hr hsel

/-- An operation has finitely many field values, and each of its words is decoded by computation. -/
theorem decode_encode (i : Instr) : decode (encode i) = .ok i := by
  cases i with
  | linURC scaled bias | linUTC scaled bias | linBRC scaled bias | linBTC scaled bias =>
    cases scaled <;> cases bias <;> rfl
  | linHUB bias rnd =>
    cases bias <;> cases rnd with
    | mode r => cases r <;> rfl
    | reserved => rfl
  | linFXP bias rnd keep more =>
    cases bias <;> cases keep <;> cases more <;> cases rnd with
    | mode r => cases r <;> rfl
    | reserved => rfl
  | _ => rfl

/-- Settles O1: both directions, from the words of the rows. -/
theorem decodeAndEncodeAgree : Obligations.DecodeAndEncodeAgree :=
  ⟨decode_encode, fun _ _ => encode_of_decodeDesc⟩

/-! ### The reserved descriptors -/

/-- The UNIT and VAR values that R84 (a) lists. -/
def ReservedUnitVar (unit var : Nat) : Prop :=
  5 ≤ unit ∨ (unit = 0 ∧ var ≠ 0) ∨ (unit = 1 ∧ 3 ≤ var) ∨ (unit = 2 ∧ 2 ≤ var) ∨ (unit = 3 ∧ 3 ≤ var) ∨
    (unit = 4 ∧ 3 ≤ var)

theorem decodeDesc_eq_error_iff {d : Desc} :
    decodeDesc d = .error .reservedDescriptor ↔ ¬ ∃ r ∈ descRows, r.selects d = true := by
  rw [decodeDesc]
  cases hfind : descRows.find? (fun r => r.selects d) with
  | some r =>
    have hsel := List.find?_some hfind
    simpa using ⟨r, List.mem_of_find?_eq_some hfind, hsel⟩
  | none => simpa using hfind

/-- Every row fixes UNIT and VAR, to values that are not reserved. -/
theorem not_reservedUnitVar_of_selects {d : Desc} {r : Row} (hr : r ∈ descRows) (hd : r.selects d = true) :
    ¬ ReservedUnitVar (d.extractLsb' 12 4).toNat (d.extractLsb' 9 3).toNat := by
  have hrows : ∀ r ∈ descRows, r.mask.extractLsb' 12 4 = BitVec.allOnes 4 ∧
      r.mask.extractLsb' 9 3 = BitVec.allOnes 3 ∧
      ¬ ReservedUnitVar (r.pat.extractLsb' 12 4).toNat (r.pat.extractLsb' 9 3).toNat := by
    unfold ReservedUnitVar
    decide
  obtain ⟨hunit, hvar, hpat⟩ := hrows r hr
  have hsel : d &&& r.mask = r.pat := beq_iff_eq.1 hd
  rwa [← hsel, BitVec.extractLsb'_and, BitVec.extractLsb'_and, hunit, hvar, BitVec.and_allOnes,
    BitVec.and_allOnes] at hpat

/-- The fields a row can fix: UNIT, VAR, MODE, SCALED and WPOL (R81, R82). -/
def headOf (unit : BitVec 4) (var : BitVec 3) (mode scaled wpol : Bool) : Desc :=
  unit.setWidth 16 <<< 12 ||| var.setWidth 16 <<< 9 ||| flagBit 8 mode ||| flagBit 7 scaled ||| flagBit 6 wpol

theorem headOf_fields (d : Desc) :
    headOf (d.extractLsb' 12 4) (d.extractLsb' 9 3) (flagOf d 8) (flagOf d 7) (flagOf d 6) =
      d &&& (0xFFC0 : Desc) := by
  rw [headOf, ← and_fieldMask, ← and_fieldMask, flagBit_flagOf, flagBit_flagOf, flagBit_flagOf,
    ← BitVec.and_or_distrib_left, ← BitVec.and_or_distrib_left, ← BitVec.and_or_distrib_left,
    ← BitVec.and_or_distrib_left]
  rfl

theorem Row.selects_and_head {r : Row} (hr : r ∈ descRows) (d : Desc) :
    r.selects (d &&& (0xFFC0 : Desc)) = r.selects d := by
  have hmask : ∀ r ∈ descRows, (0xFFC0 : Desc) &&& r.mask = r.mask := by decide
  rw [selects, selects, BitVec.and_assoc, hmask r hr]

/-- R82: the rows of one UNIT and VAR cover every value of the fields that tell them apart. -/
theorem reservedUnitVar_or_exists_row : ∀ (unit : BitVec 4) (var : BitVec 3),
    ReservedUnitVar unit.toNat var.toNat ∨
      ∀ mode scaled wpol : Bool, ∃ r ∈ descRows, r.selects (headOf unit var mode scaled wpol) = true := by
  unfold ReservedUnitVar
  decide

/-- Settles O2: no row has a reserved UNIT and VAR, and the rows cover all others. -/
theorem reservedDescriptorsAreRejected : Obligations.ReservedDescriptorsAreRejected := by
  intro d unit var
  rw [decodeDesc_eq_error_iff]
  change _ ↔ ReservedUnitVar unit var
  constructor
  · intro hnone
    refine (reservedUnitVar_or_exists_row _ _).resolve_right fun hcover => hnone ?_
    obtain ⟨r, hr, hsel⟩ := hcover (flagOf d 8) (flagOf d 7) (flagOf d 6)
    rw [headOf_fields, Row.selects_and_head hr] at hsel
    exact ⟨r, hr, hsel⟩
  · rintro hreserved ⟨r, hr, hsel⟩
    exact not_reservedUnitVar_of_selects hr hsel hreserved

/-- Settles O3: two rows conflict in a bit that both fix. -/
theorem operationRowsAreDisjoint : Obligations.OperationRowsAreDisjoint := by
  refine ⟨rfl, descRows_conflict.imp fun hconf d => ?_⟩
  rintro ⟨hsel, hsel'⟩
  rw [Row.selects_eq_false_of_conflicts hconf hsel] at hsel'
  cases hsel'

/-- Settles O4: closed words, decoded by computation. -/
theorem sampleWordsDecode : Obligations.SampleWordsDecode := by
  unfold Obligations.SampleWordsDecode
  decide

end Sys2Proof

namespace Sys2Proof.Machine

/-! ### The command a step runs -/

/-- R182: the meaning of an operation is what STEP runs for it. -/
theorem exec_eq_runOperation {i : Instr} (h : inputKind i ≠ .nothing) (s : State) :
    exec i s = runOperation i s := by
  cases i with
  | construct | step | replace | cmdReserved => exact absurd rfl h
  | _ => rfl

theorem execStep_of_addressed {s : State} {c : Command} {n : Inst} (hc : s.commands.head? = some c)
    (hn : s.insts[c.inst]? = some n) : execStep s = runOperation n.op s := by
  rw [execStep, commands_eq_cons hc]
  simp only [hn]

/-- Settles O5: dispatch by the command code, and for STEP by the addressed unit's operation. -/
theorem stepRunsTheDecodedInstruction : Obligations.StepRunsTheDecodedInstruction := by
  refine ⟨fun s c hc => step_of_presented hc, fun s c n hc hcode hn hk => ?_, fun s hs => by rw [step, fetch, hs]⟩
  calc step s
    _ = exec (decodeCmd c.code) s := step_of_presented hc
    _ = execStep s := by rw [hcode]; rfl
    _ = runOperation n.op s := execStep_of_addressed hc hn
    _ = exec n.op s := (exec_eq_runOperation hk s).symm

/-- Settles O19: the reserved code's meaning is the refusal. -/
theorem reservedCommandIsRefused : Obligations.ReservedCommandIsRefused := by
  intro s c hc
  have hexec : exec .cmdReserved s = .next (afterAnswer s c (.declined .reservedCommand)) := by
    change execCmdReserved s = _
    rw [execCmdReserved, commands_eq_cons hc]
    rfl
  refine ⟨hexec, fun hcode => ?_⟩
  rw [step_of_presented hc, hcode]
  exact hexec

/-! ### The ConfigurationErrors of CONSTRUCT -/

theorem exec_construct (s : State) : exec .construct s = execConstruct s := rfl

theorem exec_construct_of_failed {s : State} {c : Command} {e : CoreError} (hc : s.commands.head? = some c)
    (h : buildDesc c.desc c.params = .failed e) : exec .construct s = .next (afterAnswer s c (.failed e)) := by
  rw [exec_construct, execConstruct, commands_eq_cons hc]
  simp only [h]
  rfl

theorem badRounding_eq_not_wellFormed (i : Instr) : badRounding i = !i.wellFormed := by
  cases i <;> rfl

/-- R42, R43, R46: the ranges spelled out for each operation are those of the sizes it reads. -/
theorem paramsInRange_iff {i : Instr} {p : Params} :
    ParamsInRange i p ↔ 1 ≤ p.batch ∧ ((readsOf i).bitwidth = true → 1 ≤ p.bitwidth) ∧
      ((readsOf i).depth = true → 1 ≤ p.depth) ∧ ((readsOf i).axis = true → 1 ≤ p.n ∧ 1 ≤ p.o) ∧
      ((readsOf i).lanes = true → 1 ≤ p.e) := by
  cases i <;> simp [ParamsInRange, readsOf, Reads.none]

theorem badParameter_eq_false_iff {i : Instr} {p : Params} : badParameter i p = false ↔ ParamsInRange i p := by
  simp only [paramsInRange_iff, badParameter, Bool.or_eq_false_iff, Bool.and_eq_false_imp,
    decide_eq_false_iff_not, not_le, not_lt, Order.one_le_iff_pos]
  tauto

theorem illegalRow_eq_none {i : Instr} (h : i ≠ .mulIS) (h' : i ≠ .addGNSB) : illegalRow i = none := by
  cases i with
  | mulIS => exact absurd rfl h
  | addGNSB => exact absurd rfl h'
  | _ => rfl

/-- R156: an invalid `more_res` has no budgets. -/
theorem badMoreRes_of_invalid {i : Instr} {p : Params} (hb : ParamsInRange i p) (h : MoreResInvalid i p) :
    badMoreRes i p = true := by
  obtain ⟨bias, rf, more, rfl, hodd, hmore⟩ := h
  obtain ⟨-, hb, -⟩ := hb
  have hodd' : p.bitwidth.toNat % 2 ≠ 0 := by omega
  rcases hmore with rfl | rfl <;> simp [badMoreRes, fxpBudgets, hodd']

/-- A passed check leaves the error to the next one of R198. -/
theorem configError_of_legal_fields {i : Instr} {p : Params} (hrow : illegalRow i = none)
    (hw : i.wellFormed = true) (hrange : ParamsInRange i p) :
    configError i p =
      if badDepth i p then some .reluSrDepth else if badMoreRes i p then some .invalidMoreRes else none := by
  simp [configError, hrow, badRounding_eq_not_wellFormed, hw, badParameter_eq_false_iff.2 hrange]

/-- Settles O22: the first check that fails gives the cause, and CONSTRUCT answers with it. -/
theorem configurationErrorsInOrder : Obligations.ConfigurationErrorsInOrder := by
  intro s c hc raises
  refine ⟨fun hno => exec_construct_of_failed hc ?_, fun i hi => ?_⟩
  · rw [buildDesc]
    cases hd : decodeDesc c.desc with
    | error e => rfl
    | ok i => exact absurd hd (hno i)
  have hraises {cause : ConfigCause} (h : configError i c.params = some cause) : raises cause :=
    exec_construct_of_failed hc (by rw [buildDesc, hi]; exact build_of_configError h)
  refine ⟨fun his => hraises (by rw [his]; rfl), fun hgnsb => hraises (by rw [hgnsb]; rfl), fun his hgnsb => ?_⟩
  have hrow := illegalRow_eq_none his hgnsb
  have hround := badRounding_eq_not_wellFormed i
  refine ⟨fun hw => hraises ?_, fun hw hrange => hraises ?_, fun hw hrange hsr hd => hraises ?_,
    fun hw hrange hmore => hraises ?_⟩
  · simp [configError, hrow, hround, hw]
  · have hparam : badParameter i c.params = true := by rwa [← Bool.not_eq_false, badParameter_eq_false_iff]
    simp [configError, hrow, hround, hw, hparam]
  · have hdepth : badDepth i c.params = true := by subst hsr; exact decide_eq_true hd
    rw [configError_of_legal_fields hrow hw hrange, if_pos hdepth]
  · have hdepth : badDepth i c.params = false := by obtain ⟨bias, rf, more, rfl, -⟩ := hmore; rfl
    rw [configError_of_legal_fields hrow hw hrange, hdepth, badMoreRes_of_invalid hrange hmore]
    rfl

/-! ### Parameters that are not read -/

theorem whenRead_congr {α : Type} [Inhabited α] {read : Bool} {v w : α} (h : read = true → v = w) :
    whenRead read v = whenRead read w := by
  cases read with
  | true => rw [h rfl]
  | false => rfl

/-- The record with every parameter and table that operation `i` does not read put to its default. The batch size is
read by every operation. -/
def Params.onReads (i : Instr) (p : Params) : Params :=
  { bitwidth := whenRead (readsOf i).bitwidth p.bitwidth
    depth := whenRead (readsOf i).depth p.depth
    n := whenRead (readsOf i).axis p.n
    o := whenRead (readsOf i).axis p.o
    e := whenRead (readsOf i).lanes p.e
    batch := p.batch
    seq := whenRead (readsOf i).seq p.seq
    seq0 := whenRead (readsOf i).seq0 p.seq0
    seqb := whenRead (readsOf i).seqb p.seqb
    muxSeq := whenRead (readsOf i).mux p.muxSeq
    m := whenRead (readsOf i).m p.m
    mw := whenRead (readsOf i).mw p.mw
    mb := whenRead (readsOf i).mb p.mb
    w := whenRead (readsOf i).w p.w
    c := whenRead (readsOf i).c p.c }

theorem AgreeOnReads.onReads_eq {i : Instr} {p q : Params} (h : AgreeOnReads i p q) :
    p.onReads i = q.onReads i := by
  simp only [Params.onReads, h.batch, whenRead_congr h.bitwidth, whenRead_congr h.depth,
    whenRead_congr fun hr => (h.axis hr).1, whenRead_congr fun hr => (h.axis hr).2, whenRead_congr h.lanes,
    whenRead_congr h.seq, whenRead_congr h.seq0, whenRead_congr h.seqb, whenRead_congr h.mux, whenRead_congr h.m,
    whenRead_congr h.mw, whenRead_congr h.mb, whenRead_congr h.w, whenRead_congr h.c]

/-- For a given row each check of CONSTRUCT, and each field of the unit it makes, drops an unread parameter by
computation. Which bias tables a linear layer reads is up to its BIAS bit. -/
theorem build_onReads (i : Instr) (p : Params) : build i (p.onReads i) = build i p := by
  cases i with
  | linURC _ bias | linUTC _ bias | linBRC _ bias | linBTC _ bias | linHUB bias _ | linFXP bias _ _ _ =>
    cases bias <;> rfl
  | _ => rfl

theorem build_eq_of_onReads_eq {i : Instr} {p q : Params} (h : p.onReads i = q.onReads i) :
    build i p = build i q := by
  rw [← build_onReads i p, h, build_onReads]

/-- CONSTRUCT takes from its parameter record nothing but what it builds. -/
theorem exec_construct_congr {s : State} {c : Command} {q : Params} (hc : s.commands.head? = some c)
    (h : buildDesc c.desc c.params = buildDesc c.desc q) :
    exec .construct s = exec .construct { s with commands := { c with params := q } :: s.commands.tail } := by
  rw [exec_construct, exec_construct, execConstruct, commands_eq_cons hc, execConstruct]
  simp only [h]
  cases buildDesc c.desc q <;> rfl

/-- Settles O24: records that agree on what is read are the same once the rest is put to its default. -/
theorem unreadParametersAreIgnored : Obligations.UnreadParametersAreIgnored := by
  refine ⟨fun i p q h => build_eq_of_onReads_eq h.onReads_eq, fun i s c q hc hi h => exec_construct_congr hc ?_,
    fun p q he hk => build_eq_of_onReads_eq ?_, fun p q hn ho hk => build_eq_of_onReads_eq ?_,
    fun p q hd he hk => build_eq_of_onReads_eq ?_, fun p q hb he hk => build_eq_of_onReads_eq ?_,
    fun p q scaled hb hn ho hk hseq hmw => build_eq_of_onReads_eq ?_⟩
  · rw [buildDesc, buildDesc, hi]
    exact build_eq_of_onReads_eq h.onReads_eq
  · simp [Params.onReads, readsOf, Reads.none, whenRead, he, hk]
  · simp [Params.onReads, readsOf, Reads.none, whenRead, hn, ho, hk]
  · simp [Params.onReads, readsOf, Reads.none, whenRead, hd, he, hk]
  · simp [Params.onReads, readsOf, Reads.none, whenRead, hb, he, hk]
  · simp [Params.onReads, readsOf, Reads.none, whenRead, hb, hn, ho, hk, hseq, hmw]

end Sys2Proof.Machine

/-! PROOFS of the bitstream generator family (`spec/40_bitstream_generator.md`): the cycle of BSG.U and BSG.B, the
ones the generator emits over a period, and the level a caller makes from a value. -/

namespace Sys2Proof.Machine

/-! ### The cycle of the two generators -/

theorem selectedBy_bsgU : SelectedBy .bsgU 0xFF00 0x0000 := fun d => by
  simp [decodeDesc_eq_ok_iff, descRows, Row.selects]

theorem selectedBy_bsgB : SelectedBy .bsgB 0xFF00 0x0100 := fun d => by
  simp [decodeDesc_eq_ok_iff, descRows, Row.selects]

/-- R191 (7): on a legal row with legal fields, an out-of-range parameter is the first check that fails. -/
theorem build_of_not_paramsInRange {i : Instr} {p : Params} (hrow : illegalRow i = none)
    (hw : i.wellFormed = true) (h : ¬ ParamsInRange i p) :
    build i p = .failed (.configuration .parameterRange) := by
  have hparam : badParameter i p = true := by rwa [← Bool.not_eq_false, badParameter_eq_false_iff]
  exact build_of_configError (by simp [configError, hrow, badRounding_eq_not_wellFormed, hw, hparam])

theorem not_paramsInRange_of_bitwidth {i : Instr} {p : Params} (hread : (readsOf i).bitwidth = true)
    (hb : p.bitwidth ≤ 0) : ¬ ParamsInRange i p := fun h => by
  obtain ⟨-, hbitwidth, -⟩ := paramsInRange_iff.1 h
  exact absurd (hbitwidth hread) (by omega)

/-- R101: the generated bit lane by lane; the registers committed are those the cycle began with. -/
theorem bsgBody_cycle {s : State} {i : Instr} {c : Command} {n : Inst} {x : Inputs} (hrun : Running s i c n x)
    (hbody : bodyOf i = some bsgBody) :
    ∃ y : List (List Bool), exec i s = .next (afterCycle s c n n.regs (.bits y)) ∧
      hasShape2 n.batch n.e y = true ∧
      ∀ b l, b < n.batch → l < n.e → at2 y b l = gen n.period n.seq (at1 n.m l) (x.index b l) :=
  ⟨_, (exec_eq_cycle hbody s).trans (cycle_commit hrun rfl), hasShape2_tab2 .., fun _ _ hb hl => at2_tab2 _ hb hl⟩

/-- Settles O29: both operations run the one rule of R101, whose lanes are the comparisons by definition. -/
theorem generatorComparesSequenceWithLevel : Obligations.GeneratorComparesSequenceWithLevel := by
  refine ⟨selectedBy_bsgU, selectedBy_bsgB, fun i hi => ?_⟩
  obtain ⟨hbody, hrow, hw, hread⟩ : bodyOf i = some bsgBody ∧ illegalRow i = none ∧ i.wellFormed = true ∧
      (readsOf i).bitwidth = true := by
    rcases hi with rfl | rfl <;> exact ⟨rfl, rfl, rfl, rfl⟩
  exact ⟨fun p hb => build_of_not_paramsInRange hrow hw (not_paramsInRange_of_bitwidth hread hb),
    fun s c n x hrun => bsgBody_cycle hrun hbody⟩

/-! ### The ones of a period -/

theorem gen_add_period (p : Nat) (s : List Int) (m : Int) (k : Nat) : gen p s m (k + p) = gen p s m k := by
  rw [gen, gen, seqRead, seqRead, Nat.add_mod_right]

theorem gen_mono {p : Nat} {s : List Int} {m m' : Int} {k : Nat} (hm : m ≤ m') (h : gen p s m k = true) :
    gen p s m' k = true :=
  decide_eq_true ((of_decide_eq_true h).trans_le hm)

/-- Both ways of cutting `[0, k + P)`, after its first `k` and after its first `P` indices, leave the same number of
ones outside the window. -/
theorem count_gen_window (p : Nat) (s : List Int) (m : Int) (k : Nat) :
    Nat.count (fun j => gen p s m (k + j) = true) p = Nat.count (fun j => gen p s m j = true) p := by
  have hcut := Nat.count_add (fun j => gen p s m j = true) k p
  have hcut' := Nat.count_add (fun j => gen p s m j = true) p k
  simp only [Nat.add_comm p, gen_add_period] at hcut'
  omega

/-- A table is the list of its elements read by index. -/
theorem tab1_at1 {α : Type} [Inhabited α] (t : List α) : tab1 t.length (at1 t) = t := by
  refine List.ext_getElem (tab1_length ..) fun i hi hi' => ?_
  simp [tab1, at1, hi']

theorem length_of_legalSequence {p : Nat} {s : List Int} (h : legalSequence p s = true) : s.length = p := by
  simp only [legalSequence, Bool.and_eq_true, beq_iff_eq] at h
  obtain ⟨hlen, -⟩ := h
  exact hlen

/-- Over the indices of one period each element of the sequence is compared once. -/
theorem count_gen_period {p : Nat} {s : List Int} (m : Int) (h : s.length = p) :
    Nat.count (fun j => gen p s m j = true) p = s.countP (fun v => decide (v < m)) := by
  subst h
  conv_rhs => rw [← tab1_at1 s, tab1, List.countP_map]
  refine List.countP_congr fun j hj => ?_
  simp [gen, seqRead, Nat.mod_eq_of_lt (List.mem_range.1 hj)]

/-- R104: the ones of any `P` consecutive indices. -/
theorem length_filter_gen {p : Nat} {s : List Int} (m : Int) (k : Nat) (h : s.length = p) :
    ((List.range p).filter (fun j => gen p s m (k + j))).length =
      (s.filter (fun v => decide (v < m))).length := by
  simpa [Nat.count, List.countP_eq_length_filter] using
    (count_gen_window p s m k).trans (count_gen_period m h)

theorem count_lt_of_le {l p : Nat} (h : l ≤ p) : Nat.count (fun k => k < l) p = l := by
  obtain ⟨d, rfl⟩ := Nat.exists_eq_add_of_le h
  rw [Nat.count_add, Nat.count_of_forall fun _ hk => hk, Nat.count_of_forall_not fun _ _ => by omega, Nat.add_zero]

/-- R61: the definition casts the list `[0, P)` as a whole; here it is the map of the cast. -/
theorem seqIsPermutation_iff {p : Nat} {s : List Int} :
    SeqIsPermutation p s ↔ s.Perm ((List.range p).map Nat.cast) := by
  simp [SeqIsPermutation, List.map_eq_flatMap]

/-- R61, R104: `[0, P)` has as many elements below a level as the level says. -/
theorem countP_lt_of_permutation {p : Nat} {s : List Int} {m : Int} (hs : SeqIsPermutation p s) (h0 : 0 ≤ m)
    (hm : m ≤ (p : Int)) : (s.countP (fun v => decide (v < m)) : Int) = m := by
  lift m to Nat using h0
  rw [(seqIsPermutation_iff.1 hs).countP_eq, List.countP_map]
  have hcount := count_lt_of_le (Int.ofNat_le.1 hm)
  simpa [Nat.count, Function.comp_def] using hcount

/-- Settles O52: the count of a window is the count over the table, and that of a permutation its level. -/
theorem generatorDensityIsTheLevel : Obligations.GeneratorDensityIsTheLevel := by
  intro bitwidth seq m m' k hseq h0 hm p ones
  have hones : ones = (seq.filter (fun v => decide (v < m))).length :=
    length_filter_gen m k (length_of_legalSequence hseq)
  refine ⟨gen_add_period p seq m k, hones, fun hperm => ?_, gen_mono⟩
  rw [hones, ← List.countP_eq_length_filter]
  exact countP_lt_of_permutation hperm h0 (by push_cast [p]; exact hm)

/-! ### The level of a value -/

/-- R150: the rounded integer is at most one half away. -/
theorem abs_sub_rnd_round_le (q : Rat) : |q - (rnd .round q : Rat)| ≤ 1 / 2 := by
  have hle : (q.floor : Rat) ≤ q := Int.floor_le q
  have hlt : q < (q.floor : Rat) + 1 := Int.lt_floor_add_one q
  simp only [rnd, roundHalfEven]
  split_ifs <;> push_cast <;> rw [abs_le] <;> constructor <;> linarith

/-- Rounding to the nearest integer stays between two integers: one half is less than a whole step. -/
theorem rnd_round_bounds {q : Rat} {p : Nat} (h0 : 0 ≤ q) (hp : q ≤ p) :
    0 ≤ rnd .round q ∧ rnd .round q ≤ (p : Int) := by
  obtain ⟨hlo, hhi⟩ := abs_le.1 (abs_sub_rnd_round_le q)
  have hneg : ((-1 : Int) : Rat) < rnd .round q := by push_cast; linarith
  have hsucc : (rnd .round q : Rat) < ((p + 1 : Int) : Rat) := by push_cast; linarith
  exact ⟨Int.cast_lt.1 hneg, Int.lt_add_one_iff.1 (Int.cast_lt.1 hsucc)⟩

/-- R103: a share `q ∈ [0, 1]` of the period rounds to a level, at most half a level away. -/
theorem level_of_share (bitwidth : Nat) {q : Rat} (h0 : 0 ≤ q) (h1 : q ≤ 1) :
    0 ≤ rnd .round (q * (period bitwidth : Rat)) ∧
      rnd .round (q * (period bitwidth : Rat)) ≤ (2 : Int) ^ bitwidth ∧
      |q * (2 : Rat) ^ bitwidth - rnd .round (q * (period bitwidth : Rat))| ≤ 1 / 2 := by
  have hcast : (period bitwidth : Rat) = (2 : Rat) ^ bitwidth := by simp [period]
  have hp : (0 : Rat) ≤ period bitwidth := Nat.cast_nonneg _
  obtain ⟨hlo, hhi⟩ := rnd_round_bounds (mul_nonneg h0 hp) (mul_le_of_le_one_left hp h1)
  exact ⟨hlo, by simpa [period] using hhi, hcast ▸ abs_sub_rnd_round_le _⟩

theorem levelOf_unipolar (bitwidth : Nat) (v : Rat) :
    levelOf bitwidth false v = if 0 ≤ v ∧ v ≤ 1 then some (rnd .round (v * (period bitwidth : Rat))) else none := rfl

theorem levelOf_bipolar (bitwidth : Nat) (v : Rat) :
    levelOf bitwidth true v =
      if -1 ≤ v ∧ v ≤ 1 then some (rnd .round ((v + 1) / 2 * (period bitwidth : Rat))) else none := rfl

/-- Settles O54: in range the level is a rounded share of the period, `v` or `(v + 1) / 2`; outside, the guard of the
conversion fails. -/
theorem levelConversionIsNearest : Obligations.LevelConversionIsNearest := by
  intro bitwidth v
  rw [levelOf_unipolar, levelOf_bipolar]
  refine ⟨fun hv => ⟨_, if_pos hv, level_of_share bitwidth hv.1 hv.2⟩, fun hv => ⟨_, if_pos hv, ?_⟩,
    fun hv => if_neg fun ⟨h0, h1⟩ => hv.elim h0.not_gt h1.not_gt,
    fun hv => if_neg fun ⟨hneg, h1⟩ => hv.elim hneg.not_gt h1.not_gt⟩
  obtain ⟨hneg, h1⟩ := hv
  exact level_of_share bitwidth (by linarith) (by linarith)

end Sys2Proof.Machine

/-! PROOFS of the multiplier family (`spec/41_multiplier.md`): the cycles of the gates and of the static multipliers
lane by lane, the count of a MUL.SU lane over a window, and the row that is never constructed. -/

namespace Sys2Proof.Machine

/-! ### The rows of the multipliers -/

theorem selectedBy_mulAND : SelectedBy .mulAND 0xFF00 0x1000 := fun d => by
  simp [decodeDesc_eq_ok_iff, descRows, Row.selects]

theorem selectedBy_mulXNOR : SelectedBy .mulXNOR 0xFF00 0x1100 := fun d => by
  simp [decodeDesc_eq_ok_iff, descRows, Row.selects]

theorem selectedBy_mulSU : SelectedBy .mulSU 0xFF00 0x1200 := fun d => by
  simp [decodeDesc_eq_ok_iff, descRows, Row.selects]

theorem selectedBy_mulSB : SelectedBy .mulSB 0xFF00 0x1300 := fun d => by
  simp [decodeDesc_eq_ok_iff, descRows, Row.selects]

theorem selectedBy_mulIS : SelectedBy .mulIS 0xFE00 0x1400 := fun d => by
  simp [decodeDesc_eq_ok_iff, descRows, Row.selects]

/-! ### One lane -/

theorem xnorGate_eq_true_iff {a b : Bool} : xnorGate a b = true ↔ a = b := by
  cases a <;> cases b <;> decide

/-- R23: a counter moves by one when its enable is 1 and is held when it is 0. -/
theorem advance_eq_ite (p c : Nat) (e : Bool) : advance p c e = (c + (if e then 1 else 0)) % p := by
  cases e <;> rfl

/-- R23: the enable of `c0` is the complement of the live bit. -/
theorem advance_not (p c : Nat) (a : Bool) : advance p c (!a) = (c + (if a then 0 else 1)) % p := by
  cases a <;> rfl

@[simp] theorem suOut_true (p : Nat) (s : List Int) (m : Int) (c : Nat) : suOut p s m c true = gen p s m c :=
  Bool.true_and _

@[simp] theorem suOut_false (p : Nat) (s : List Int) (m : Int) (c : Nat) : suOut p s m c false = false :=
  Bool.false_and _

/-- R113: the live bit chooses between the first path and the inverted second one. -/
theorem sbOut_eq_ite (p : Nat) (s1 s0 : List Int) (m : Int) (c1 c0 : Nat) (a : Bool) :
    sbOut p s1 s0 m c1 c0 a = if a then gen p s1 m c1 else !gen p s0 m c0 := by
  cases a with
  | false => exact (Bool.false_or _).trans (Bool.true_and _)
  | true => exact Bool.or_false _

/-! ### The gates -/

/-- A rule that commits the registers it began with and a gate of the two inputs of each lane. -/
theorem gate_cycle {s : State} {i : Instr} {c : Command} {n : Inst} {x : Inputs} {gate : Bool → Bool → Bool}
    {body : Inst → Inputs → CycleResult} (hrun : Running s i c n x) (hbody : bodyOf i = some body)
    (hgate : body n x =
      .commit n.regs (.bits (tab2 n.batch n.e fun b l => gate (x.left b l) (x.right b l)))) :
    ∃ y : List (List Bool), exec i s = .next (afterCycle s c n n.regs (.bits y)) ∧
      hasShape2 n.batch n.e y = true ∧
      ∀ b l, b < n.batch → l < n.e → at2 y b l = gate (x.left b l) (x.right b l) :=
  ⟨_, (exec_eq_cycle hbody s).trans (cycle_commit hrun hgate), hasShape2_tab2 .., fun _ _ hb hl => at2_tab2 _ hb hl⟩

/-- Settles O30: each of the two operations runs its gate in every lane. -/
theorem gateMultipliersAreTheirGates : Obligations.GateMultipliersAreTheirGates := by
  refine ⟨selectedBy_mulAND, selectedBy_mulXNOR, fun i s c n x hi hrun => ?_⟩
  rcases hi with rfl | rfl
  case inl =>
    obtain ⟨y, hexec, hshape, hlanes⟩ := gate_cycle (gate := andGate) hrun rfl rfl
    exact ⟨y, hexec, hshape, fun b l hb hl => ⟨fun _ => hlanes b l hb hl, nofun⟩⟩
  case inr =>
    obtain ⟨y, hexec, hshape, hlanes⟩ := gate_cycle (gate := xnorGate) hrun rfl rfl
    exact ⟨y, hexec, hshape, fun b l hb hl => ⟨nofun, fun _ => hlanes b l hb hl ▸ xnorGate_eq_true_iff⟩⟩

/-! ### The static multipliers -/

/-- Settles O31: the rule commits the lane operations of R112, and `B ≤ 0` is out of the parameter range. -/
theorem staticUnipolarMultiplierCycle : Obligations.StaticUnipolarMultiplierCycle := by
  refine ⟨selectedBy_mulSU, fun p hb => build_of_not_paramsInRange rfl rfl (not_paramsInRange_of_bitwidth rfl hb),
    fun s c n x hrun => ?_⟩
  have hexec := (exec_eq_cycle rfl s).trans (cycle_commit hrun (rfl : mulSuBody n x = _))
  exact ⟨_, _, hexec, hasShape2_tab2 .., hasShape2_tab2 .., fun b l hb hl =>
    ⟨at2_tab2 _ hb hl, (at2_tab2 _ hb hl).trans (advance_eq_ite ..)⟩⟩

/-- Settles O32: the rule commits the lane operations of R113, each a choice by the live bit. -/
theorem staticBipolarMultiplierCycle : Obligations.StaticBipolarMultiplierCycle := by
  refine ⟨selectedBy_mulSB, fun s c n x hrun => ?_⟩
  have hexec := (exec_eq_cycle rfl s).trans (cycle_commit hrun (rfl : mulSbBody n x = _))
  exact ⟨_, _, _, hexec, hasShape2_tab2 .., hasShape2_tab2 .., hasShape2_tab2 .., fun b l hb hl =>
    ⟨(at2_tab2 _ hb hl).trans (sbOut_eq_ite ..), (at2_tab2 _ hb hl).trans (advance_eq_ite ..),
      (at2_tab2 _ hb hl).trans (advance_not ..)⟩⟩

/-! ### The ones of a MUL.SU lane over a window -/

theorem gen_of_lt {p : Nat} (s : List Int) (m : Int) {k : Nat} (hk : k < p) :
    gen p s m k = decide (at1 s k < m) := by
  rw [gen, seqRead, Nat.mod_eq_of_lt hk]

/-- R23, R60: reducing the counter modulo `P` does not change what the generator reads from it on. -/
theorem gen_advance_add (p : Nat) (s : List Int) (m : Int) (c k : Nat) (e : Bool) :
    gen p s m (advance p c e + k) = gen p s m (c + bitNat e + k) := by
  rw [gen, gen, seqRead, seqRead, advance, Nat.mod_add_mod]

/-- R112: from any counter, a lane emits the generator's ones at as many consecutive indices as the live stream has
ones, since only a live 1 consumes an index. -/
theorem count_suStream (p : Nat) (s : List Int) (m : Int) (c : Nat) (live : List Bool) :
    (suStream p s m c live).count true = Nat.count (fun k => gen p s m (c + k) = true) (live.count true) := by
  induction live generalizing c with
  | nil => rfl
  | cons a as ih =>
    have hrest := ih (advance p c a)
    simp only [gen_advance_add] at hrest
    rw [suStream, List.count_cons, hrest]
    cases a with
    | false => simp [bitNat]
    | true => simp [bitNat, Nat.count_succ', Nat.add_assoc, Nat.add_comm 1]

/-- Settles O53: from counter 0 the indices consumed stay below `P`, so the generator reads the table
without wrapping. -/
theorem staticMultiplierCountsIndependentOfPlace : Obligations.StaticMultiplierCountsIndependentOfPlace := by
  intro bitwidth seq m live hlive
  rw [count_suStream, ← List.countP_eq_length_filter]
  refine List.countP_congr fun k hk => ?_
  simp [gen_of_lt seq m ((List.mem_range.1 hk).trans_le hlive)]

/-! ### MUL.IS -/

theorem raiseConfiguration_of_presented {s : State} {c : Command} (cause : ConfigCause)
    (hc : s.commands.head? = some c) :
    raiseConfiguration cause s = .next (afterAnswer s c (.failed (.configuration cause))) := by
  rw [raiseConfiguration, commands_eq_cons hc]
  rfl

/-- Settles O25: the row's check is the first of R198, whatever the parameters. -/
theorem inStreamMultiplicationRaises : Obligations.InStreamMultiplicationRaises :=
  ⟨selectedBy_mulIS, fun _ => build_of_configError rfl, fun _ _ hc => raiseConfiguration_of_presented _ hc⟩

end Sys2Proof.Machine

/-! PROOFS of the adder family (`spec/42_adder.md`): the cycles of ADD.SC and ADD.GOR lane by lane, the bits of a
scaled accumulator over a window, the death of ADD.GMUX at an illegal index, and the row that is never constructed. -/

namespace Sys2Proof.Machine

/-! ### The rows of the adders -/

theorem selectedBy_addSC : SelectedBy .addSC 0xFE80 0x2080 := fun d => by
  simp [decodeDesc_eq_ok_iff, descRows, Row.selects]

theorem selectedBy_addGOR : SelectedBy .addGOR 0xFF80 0x2200 := fun d => by
  simp [decodeDesc_eq_ok_iff, descRows, Row.selects]

theorem selectedBy_addGNSB : SelectedBy .addGNSB 0xFF80 0x2300 := fun d => by
  simp [decodeDesc_eq_ok_iff, descRows, Row.selects]

/-! ### ADD.SC -/

/-- R121: `bound` is subtracted exactly when the sum reaches it. -/
theorem scaledNext_eq_ite (bound acc s : Nat) :
    scaledNext bound acc s = if bound ≤ acc + s then acc + s - bound else acc + s := by
  unfold scaledNext scaledOut
  split_ifs with h <;> simp [h, bitNat]

/-- Settles O33: the rule commits the scaled stage with the sums written out, and without a bias lane its `bound`
is `N`. -/
theorem scaledAddCycle : Obligations.ScaledAddCycle := by
  refine ⟨selectedBy_addSC, fun s c n x hrun => ?_⟩
  have hexec := (exec_eq_cycle rfl s).trans (cycle_commit hrun (rfl : addScBody n x = _))
  exact ⟨_, _, hexec, hasShape2_tab2 .., hasShape2_tab2 .., fun b o hb ho =>
    ⟨at2_tab2 _ hb ho, (at2_tab2 _ hb ho).trans (scaledNext_eq_ite ..)⟩⟩

/-! ### A scaled accumulator over a window -/

theorem scaledRun_cons (bound acc k : Nat) (ks : List Nat) :
    scaledRun bound acc (k :: ks) =
      (scaledOut bound acc k :: (scaledRun bound (scaledNext bound acc k) ks).1,
        (scaledRun bound (scaledNext bound acc k) ks).2) := rfl

theorem count_true_cons (b : Bool) (l : List Bool) : (b :: l).count true = l.count true + bitNat b := by
  cases b with
  | false => exact List.count_cons_of_ne Bool.false_ne_true
  | true => exact List.count_cons_self

/-- R124: from any accumulator and for any counts, no bit is gained or lost. -/
theorem scaledRun_add (bound acc : Nat) (counts : List Nat) :
    bound * (scaledRun bound acc counts).1.count true + (scaledRun bound acc counts).2 = acc + counts.sum := by
  induction counts generalizing acc with
  | nil => simp [scaledRun]
  | cons k ks ih =>
    have hrest := ih (scaledNext bound acc k)
    have hcycle := scaledNext_add bound acc k
    rw [scaledRun_cons, count_true_cons, Nat.mul_add, List.sum_cons]
    omega

/-- R24: counts of at most `bound` keep the accumulator below `bound`. -/
theorem scaledRun_lt {bound acc : Nat} {counts : List Nat} (hacc : acc < bound) (hcounts : ∀ k ∈ counts, k ≤ bound) :
    (scaledRun bound acc counts).2 < bound := by
  induction counts generalizing acc with
  | nil => exact hacc
  | cons k ks ih =>
    obtain ⟨hk, hks⟩ := List.forall_mem_cons.1 hcounts
    exact ih (scaledNext_lt hacc hk) hks

/-- Settles O38: the balance holds for any counts, the bound on the residue for those of at most `bound` lanes. -/
theorem scaledAddConserves : Obligations.ScaledAddConserves :=
  fun bound acc counts hacc hcounts => ⟨scaledRun_add bound acc counts, scaledRun_lt hacc hcounts⟩

/-! ### ADD.GMUX at an illegal index -/

theorem addGmuxBody_of_ge {n : Inst} (x : Inputs) (hj : n.n ≤ at1 n.muxSeq n.regs.mc) :
    addGmuxBody n x = .raise (.precondition (at1 n.muxSeq n.regs.mc) n.n) :=
  if_pos hj

/-- R196: an error raised on a unit kills it, with nothing else of it written. -/
theorem raiseError_of_addressed {s : State} {k : Nat} {n : Inst} (c : Command) (e : CoreError)
    (hn : s.insts[k]? = some n) :
    raiseError s c (some k) e = .next (answer (setInst s k (killed n e)) c (.failed e)) := by
  simp only [raiseError, hn]

/-- Settles O36: the rule raises before it commits anything, and the error takes the running unit. -/
theorem illegalMuxIndexKillsWithoutMutation : Obligations.IllegalMuxIndexKillsWithoutMutation := by
  intro s c n x hrun hj
  calc exec .addGMUX s
    _ = cycle .addGMUX addGmuxBody s := exec_eq_cycle rfl s
    _ = raiseError s c (some c.inst) (.precondition (at1 n.muxSeq n.regs.mc) n.n) := by
      rw [cycle_of_running addGmuxBody hrun, addGmuxBody_of_ge x hj]
    _ = _ := raiseError_of_addressed c _ hrun.addressed

/-! ### ADD.GOR -/

theorem axisOr_eq_true_iff {n : Inst} {x : Inputs} {b o : Nat} :
    axisOr n x b o = true ↔ ∃ i, i < n.n ∧ x.axis b i o = true := by
  simp [axisOr]

/-- Settles O37: the rule commits the registers it began with and the OR over the axis. -/
theorem orAddIsOr : Obligations.OrAddIsOr := by
  refine ⟨selectedBy_addGOR, fun s c n x hrun => ?_⟩
  have hexec := (exec_eq_cycle rfl s).trans (cycle_commit hrun (rfl : addGorBody n x = _))
  refine ⟨_, hexec, hasShape2_tab2 .., fun b o hb ho => ?_⟩
  rw [at2_tab2 _ hb ho]
  exact axisOr_eq_true_iff

/-! ### ADD.GNSB -/

/-- Settles O26: the row's check is the first of R198, whatever the parameters. -/
theorem gainesNonscaledBipolarRaises : Obligations.GainesNonscaledBipolarRaises :=
  ⟨selectedBy_addGNSB, fun _ => build_of_configError rfl, fun _ _ hc => raiseConfiguration_of_presented _ hc⟩

end Sys2Proof.Machine

/-! PROOFS of the bit-serial linear family (`spec/43_linear_bitserial.md`): the lanes of the exact variants as static
multipliers, the cycle of the four variants lane by lane, the ones of a one-lane layer over a period, and the shape
checks of CONSTRUCT on the weight and bias tables. -/

namespace Sys2Proof.Machine

/-! ### The count of a cycle -/

section

variable (bias : Bool) (n : Inst) (x : Inputs) (b o : Nat)

/-- R137: the unipolar count is one pass, and the bias bit with a bias lane. -/
theorem linCount_unipolar :
    linCount false bias n x b o =
      ((List.range n.n).map (fun k => (x.bit b k && weightBit n b o k).toNat)).sum + (bias && biasBit n o).toNat := by
  cases bias <;> rfl

/-- R137: an input lane meets the weight bit in the first pass or the inverted weight bit in the second. -/
theorem linCount_bipolar :
    linCount true bias n x b o =
      ((List.range n.n).map (fun k =>
        if x.bit b k then (weightBit n b o k).toNat else (inverseBit n b o k).toNat)).sum +
        (bias && biasBit n o).toNat := by
  have hpasses : posCount n x b o + negCount n x b o = sumNat n.n (fun k =>
      if x.bit b k then (weightBit n b o k).toNat else (inverseBit n b o k).toNat) := by
    rw [posCount, negCount, ← sumNat_add]
    congr 1
    funext k
    cases x.bit b k with
    | false => exact Nat.zero_add _
    | true => rfl
  have hbias : (if bias then bitNat (biasBit n o) else 0) = (bias && biasBit n o).toNat := by cases bias <;> rfl
  exact congrArg₂ (· + ·) hpasses hbias

end

/-! ### The counters after a cycle -/

section

variable {n : Inst} (x : Inputs) (bipolar temporal bias : Bool) {b o k : Nat}

theorem at3_linCounters_cw (hb : b < n.batch) (ho : o < n.o) (hk : k < n.n) :
    at3 (linCounters bipolar temporal bias n x).cw b o k =
      advance n.period (at3 n.regs.cw b o k) (temporal || x.bit b k) :=
  at3_tab3 _ hb ho hk

theorem at3_linCounters_cwi (hb : b < n.batch) (ho : o < n.o) (hk : k < n.n) :
    at3 (linCounters true temporal bias n x).cwi b o k =
      advance n.period (at3 n.regs.cwi b o k) (temporal || !x.bit b k) :=
  at3_tab3 _ hb ho hk

/-- R139: the bias counters move in every cycle, under either policy, and only with a bias lane. -/
theorem linCounters_cb (n : Inst) :
    (bias = false → (linCounters bipolar temporal bias n x).cb = n.regs.cb) ∧
      (bias = true → ∀ o, o < n.o →
        at1 (linCounters bipolar temporal bias n x).cb o = (at1 n.regs.cb o + 1) % n.period) := by
  cases bias with
  | false => exact ⟨fun _ => rfl, nofun⟩
  | true => exact ⟨nofun, fun _ _ ho => at1_tab1 _ ho⟩

end

/-- Settles O42: the bits by the definitions of the multipliers, the counters under the rate policy. -/
theorem linearLaneIsAStaticMultiplier : Obligations.LinearLaneIsAStaticMultiplier :=
  fun bias _ x _ _ _ hb ho hk =>
    ⟨rfl, rfl, at3_linCounters_cw x true false bias hb ho hk, at3_linCounters_cwi x false bias hb ho hk⟩

/-! ### The cycle of the exact variants -/

/-- R138, R139: any exact variant commits the advanced counters, and its count goes through the output stage that
SCALED selects. The other stage's registers are held. -/
theorem linBody_commit (bipolar temporal scaled bias : Bool) (n : Inst) (x : Inputs) :
    ∃ (y : List (List Bool)) (acc : List (List Nat)) (acc2 : List (List Int)) (oacc : List (List Nat)),
      linBody bipolar temporal scaled bias n x =
        .commit { linCounters bipolar temporal bias n x with acc := acc, acc2 := acc2, oacc := oacc } (.bits y) ∧
      hasShape2 n.batch n.o y = true ∧
      (scaled = true → acc2 = n.regs.acc2 ∧ oacc = n.regs.oacc) ∧ (scaled = false → acc = n.regs.acc) ∧
      ∀ b o, b < n.batch → o < n.o →
        (scaled = true →
          at2 y b o = decide (boundOf n.n bias ≤ at2 n.regs.acc b o + linCount bipolar bias n x b o) ∧
          at2 acc b o + boundOf n.n bias * (at2 y b o).toNat = at2 n.regs.acc b o + linCount bipolar bias n x b o) ∧
        (scaled = false →
          at2 acc2 b o = nonscaledSum (offsetTwice bipolar (boundOf n.n bias)) (at2 n.regs.acc2 b o)
            (linCount bipolar bias n x b o) ∧
          at2 y b o = decide (2 * ((at2 n.regs.oacc b o : Nat) : Int) < at2 acc2 b o) ∧
          at2 oacc b o = at2 n.regs.oacc b o + (at2 y b o).toNat) := by
  cases scaled with
  | true =>
    refine ⟨_, _, _, _, rfl, hasShape2_tab2 .., fun _ => ⟨rfl, rfl⟩, nofun, fun b o hb ho => ⟨fun _ => ?_, nofun⟩⟩
    rw [at2_tab2 _ hb ho, at2_tab2 _ hb ho]
    exact ⟨rfl, scaledNext_add ..⟩
  | false =>
    refine ⟨_, _, _, _, rfl, hasShape2_tab2 .., nofun, fun _ => rfl, fun b o hb ho => ⟨nofun, fun _ => ?_⟩⟩
    rw [at2_tab2 _ hb ho, at2_tab2 _ hb ho, at2_tab2 _ hb ho]
    exact ⟨rfl, rfl, rfl⟩

theorem exec_linInstr {bipolar temporal scaled bias : Bool} {s : State} {c : Command} {n : Inst} {x : Inputs}
    {r : Regs} {y : Outputs} (hrun : Running s (linInstr bipolar temporal scaled bias) c n x)
    (h : linBody bipolar temporal scaled bias n x = .commit r y) :
    exec (linInstr bipolar temporal scaled bias) s = .next (afterCycle s c n r y) :=
  (exec_eq_cycle (bodyOf_linInstr ..) s).trans (cycle_commit hrun h)

theorem ite_temporal_unipolar (temporal scaled bias : Bool) :
    (if temporal then .linUTC scaled bias else .linURC scaled bias) = linInstr false temporal scaled bias := by
  cases temporal <;> rfl

theorem ite_temporal_bipolar (temporal scaled bias : Bool) :
    (if temporal then .linBTC scaled bias else .linBRC scaled bias) = linInstr true temporal scaled bias := by
  cases temporal <;> rfl

/-- Settles O40: the cycle of the exact variants with the unipolar count, no offset and one set of counters. -/
theorem unipolarLinearCycle : Obligations.UnipolarLinearCycle := by
  intro temporal scaled bias s c n x i hrun
  have hi : i = linInstr false temporal scaled bias := ite_temporal_unipolar temporal scaled bias
  rw [hi] at hrun ⊢
  obtain ⟨y, acc, acc2, oacc, hbody, hy, hscaled, hnonscaled, hlanes⟩ :=
    linBody_commit false temporal scaled bias n x
  obtain ⟨hcb, hcb'⟩ := linCounters_cb x false temporal bias n
  refine ⟨y, _, exec_linInstr hrun hbody, rfl, hy, hasShape3_tab3 .., hcb, hscaled, hnonscaled, hcb',
    fun b o hb ho => ?_⟩
  obtain ⟨hstage, hstage'⟩ := hlanes b o hb ho
  rw [linCount_unipolar] at hstage hstage'
  refine ⟨fun k hk => ?_, hstage, fun h => ?_⟩
  · rw [← advance_eq_ite]
    exact at3_linCounters_cw x false temporal bias hb ho hk
  · obtain ⟨hacc2, hout, hoacc⟩ := hstage' h
    exact ⟨hacc2.trans (Int.sub_zero _), hout, hoacc⟩

/-- Settles O41: the cycle of the exact variants with the bipolar count, the offset of `bound` and both sets of
counters. -/
theorem bipolarLinearCycle : Obligations.BipolarLinearCycle := by
  intro temporal scaled bias s c n x i hrun
  have hi : i = linInstr true temporal scaled bias := ite_temporal_bipolar temporal scaled bias
  rw [hi] at hrun ⊢
  obtain ⟨y, acc, acc2, oacc, hbody, hy, hscaled, hnonscaled, hlanes⟩ :=
    linBody_commit true temporal scaled bias n x
  obtain ⟨hcb, hcb'⟩ := linCounters_cb x true temporal bias n
  refine ⟨y, _, exec_linInstr hrun hbody, rfl, hy, hasShape3_tab3 .., hasShape3_tab3 .., hcb, hscaled, hnonscaled,
    hcb', fun b o hb ho => ?_⟩
  obtain ⟨hstage, hstage'⟩ := hlanes b o hb ho
  rw [linCount_bipolar] at hstage hstage'
  refine ⟨fun k hk => ?_, hstage, hstage'⟩
  rw [← advance_eq_ite, ← advance_eq_ite]
  exact ⟨at3_linCounters_cw x true temporal bias hb ho hk, at3_linCounters_cwi x temporal bias hb ho hk⟩

/-! ### A one-lane LIN.U.RC over a period -/

theorem eq_of_hasShape2_one {α : Type} [Inhabited α] {t : List (List α)} (h : hasShape2 1 1 t = true) :
    t = [[at2 t 0 0]] := by
  obtain ⟨hlen, hrows⟩ := (hasShape2_iff 1 1 t).1 h
  obtain ⟨u, rfl⟩ := List.length_eq_one_iff.1 hlen
  obtain ⟨v, rfl⟩ := List.length_eq_one_iff.1 (hrows u List.mem_cons_self)
  rfl

/-- A unit with one input lane, one output lane and one batch entry, of weight level `w`, whose weight counter is at
`c` and whose accumulator is empty. -/
structure Inst.IsLaneAt (n : Inst) (w : Int) (c : Nat) : Prop where
  n_eq : n.n = 1
  o_eq : n.o = 1
  batch_eq : n.batch = 1
  mw_eq : at2 n.mw 0 0 = w
  acc_eq : at2 n.regs.acc 0 0 = 0
  cw_eq : at3 n.regs.cw 0 0 0 = c

section

variable {n : Inst} {w : Int} {c : Nat}

/-- R146: the count of the one lane is the bit of a MUL.SU lane on the weight counter. -/
theorem Inst.IsLaneAt.linCount_eq (h : n.IsLaneAt w c) (a : Bool) :
    linCount false false n (.lanes [[a]]) 0 0 = (suOut n.period n.seq w c a).toNat := by
  rw [linCount_unipolar, h.n_eq, ← h.mw_eq, ← h.cw_eq]
  rfl

/-- R147: with `bound = 1` the scaled stage hands the lane's bit on and keeps nothing, so that the unit is such a
lane again. -/
theorem Inst.IsLaneAt.exists_commit (h : n.IsLaneAt w c) (a : Bool) :
    ∃ r, linBody false false true false n (.lanes [[a]]) = .commit r (.bits [[suOut n.period n.seq w c a]]) ∧
      Inst.IsLaneAt { n with regs := r } w (advance n.period c a) := by
  obtain ⟨y, acc, acc2, oacc, hbody, hy, -, -, hlanes⟩ :=
    linBody_commit false false true false n (.lanes [[a]])
  have hb : 0 < n.batch := h.batch_eq ▸ Nat.one_pos
  have ho : 0 < n.o := h.o_eq ▸ Nat.one_pos
  have hk : 0 < n.n := h.n_eq ▸ Nat.one_pos
  obtain ⟨hstage, -⟩ := hlanes 0 0 hb ho
  obtain ⟨hout, hacc⟩ := hstage rfl
  have hbound : boundOf n.n false = 1 := h.n_eq
  rw [h.linCount_eq, h.acc_eq, hbound, Nat.zero_add] at hout hacc
  have hbit : at2 y 0 0 = suOut n.period n.seq w c a := by
    rw [hout]
    cases suOut n.period n.seq w c a <;> rfl
  have hempty : at2 acc 0 0 = 0 := by
    rw [hbit] at hacc
    omega
  have hcw := at3_linCounters_cw (.lanes [[a]]) false false false hb ho hk
  rw [h.cw_eq] at hcw
  rw [h.batch_eq, h.o_eq] at hy
  rw [← hbit, ← eq_of_hasShape2_one hy]
  exact ⟨_, hbody, h.n_eq, h.o_eq, h.batch_eq, h.mw_eq, hempty, hcw⟩

/-- R146, R147: over successive cycles the one lane emits the stream of a MUL.SU lane. -/
theorem Inst.IsLaneAt.streamOf_eq (h : n.IsLaneAt w c) (live : List Bool) :
    streamOf (linBody false false true false) n (live.map fun a => .lanes [[a]]) =
      (suStream n.period n.seq w c live).map fun y => .bits [[y]] := by
  induction live generalizing n c with
  | nil => rfl
  | cons a as ih =>
    obtain ⟨r, hbody, hnext⟩ := h.exists_commit a
    have hrest := ih hnext
    simp only [List.map_cons, streamOf, hbody, suStream]
    exact congrArg _ hrest

end

/-- R49, R216: a constructed unit of one lane starts with its counter and its accumulator at 0. -/
theorem isLaneAt_of_build {p : Params} {n : Inst} {w : Int} (hmade : build (.linURC true false) p = .made n)
    (hn : p.n = 1) (ho : p.o = 1) (hbatch : p.batch = 1) (hmw : n.mw = [[w]]) : n.IsLaneAt w 0 := by
  obtain ⟨hreset2, hreset3, -⟩ := constructedRegistersAreReset _ p n hmade
  obtain ⟨-, -, hacc, -⟩ := hreset2 0 0
  obtain ⟨hcw, -⟩ := hreset3 0 0 0
  obtain ⟨-, -, -, rfl⟩ := (build_made_iff _ p n).1 hmade
  refine ⟨?_, ?_, congrArg Int.toNat hbatch, by rw [hmw]; rfl, hacc, hcw⟩
  · rw [makeInst_n p rfl, hn]
    rfl
  · rw [makeInst_o p rfl, ho]
    rfl

/-- U1: the weight level of a constructed one-lane unit is at most the period. -/
theorem weight_le_period_of_build {i : Instr} {p : Params} {n : Inst} {w : Nat} (hmade : build i p = .made n)
    (hmw : n.mw = [[(w : Int)]]) : w ≤ n.period := by
  obtain ⟨-, -, href, rfl⟩ := (build_made_iff i p n).1 hmade
  obtain ⟨-, -, -, hlevel⟩ := constructRefusal_eq_none.1 href
  obtain ⟨-, hlegal, -⟩ := levels_of_badLevel hlevel
  have hw := hlegal [(w : Int)] (by simp [hmw]) w (by simp)
  obtain ⟨-, hle⟩ := of_decide_eq_true hw
  exact Int.ofNat_le.1 hle

/-- Settles O43: the layer's stream is that of a MUL.SU lane, whose ones over a window are the table's entry (O53). -/
theorem bitSerialCountAgreesWithHubTable : Obligations.BitSerialCountAgreesWithHubTable := by
  intro p n w live hmade hn ho hbatch hmw hlive
  have hw := weight_le_period_of_build hmade hmw
  have hones : live.count true ≤ n.period := hlive ▸ List.count_le_length
  have hbits : Function.Injective (fun y : Bool => Outputs.bits [[y]]) := fun y y' h => by simpa using h
  calc (streamOf (linBody false false true false) n (live.map fun a => .lanes [[a]])).count (.bits [[true]])
    _ = ((suStream n.period n.seq w 0 live).map fun y => Outputs.bits [[y]]).count (.bits [[true]]) := by
      rw [(isLaneAt_of_build hmade hn ho hbatch hmw).streamOf_eq live]
    _ = (suStream n.period n.seq w 0 live).count true := List.count_map_of_injective _ _ hbits true
    _ = lutEntry n.seq (live.count true) w := staticMultiplierCountsIndependentOfPlace _ n.seq w live hones
    _ = at2 (hubTable n.period n.seq) (live.count true) w :=
      (at2_tab2 _ (Nat.lt_succ_of_le hones) (Nat.lt_succ_of_le hw)).symm

/-! ### The ShapeMismatchErrors of CONSTRUCT -/

/-- R62: an operation reads level tables or rational tensors, and never both. -/
theorem readsOf_levels_or_rationals (i : Instr) :
    ((readsOf i).w = false ∧ (readsOf i).c = false) ∨ ((readsOf i).mw = false ∧ (readsOf i).mb = false) := by
  cases i <;> simp [readsOf, Reads.none]

/-- R156: the budgets are undefined only for an odd `B` with the output's resolution kept and an invalid code. -/
theorem badMoreRes_eq_false {i : Instr} {p : Params} (h : ¬ MoreResInvalid i p) : badMoreRes i p = false := by
  cases i with
  | linFXP bias rf keep more =>
    cases keep with
    | input => rfl
    | output =>
      by_cases hb : p.bitwidth.toNat % 2 = 0
      · simp [badMoreRes, fxpBudgets, hb]
      · have hodd : p.bitwidth % 2 = 1 := by omega
        cases more with
        | input | weight => simp [badMoreRes, fxpBudgets, hb]
        | code2 => exact absurd ⟨bias, rf, .code2, rfl, hodd, .inl rfl⟩ h
        | code3 => exact absurd ⟨bias, rf, .code3, rfl, hodd, .inr rfl⟩ h
  | _ => rfl

/-- R191: of a row that reads a weight or bias table, the checks before the shapes are those of its fields, of its
parameters and of `more_res`. -/
theorem configError_eq_none_of_table {i : Instr} {p : Params} (hw : i.wellFormed = true) (hrange : ParamsInRange i p)
    (hmore : ¬ MoreResInvalid i p)
    (htable : (readsOf i).mw = true ∨ (readsOf i).mb = true ∨ (readsOf i).w = true ∨ (readsOf i).c = true) :
    configError i p = none := by
  have hrow : illegalRow i = none := by
    cases i with
    | mulIS | addGNSB => exact absurd htable (by decide)
    | _ => rfl
  have hdepth : badDepth i p = false := by
    cases i with
    | reluSR => exact absurd htable (by decide)
    | _ => rfl
  rw [configError_of_legal_fields hrow hw hrange, hdepth, badMoreRes_eq_false hmore]
  rfl

theorem build_of_shapeError {i : Instr} {p : Params} {e : CoreError} (hconf : configError i p = none)
    (h : shapeError i p = some e) : build i p = .failed e := by
  simp only [build, hconf, h]

theorem weightShapeError_of_not_hasShape2 {α : Type} {o n : Nat} {t : List (List α)} (h : hasShape2 o n t = false) :
    weightShapeError o n (some t) = some (.shapeMismatch .weight [o, n] [t.length, foundColumns n t]) := by
  simp [weightShapeError, h]

theorem weightShapeError_of_hasShape2 {α : Type} {o n : Nat} {t : List (List α)} (h : hasShape2 o n t = true) :
    weightShapeError o n (some t) = none := if_pos h

theorem biasShapeError_of_length_ne {α : Type} {o : Nat} {t : List α} (h : t.length ≠ o) :
    biasShapeError o (some t) = some (.shapeMismatch .bias [o] [t.length]) := if_neg (by simpa using h)

section

variable {i : Instr} {p : Params}

/-- R192, R198: the weight levels are checked first, or the rational weights, as no row reads both. -/
theorem shapeError_of_weight_levels {t : List (List Int)} (hr : (readsOf i).mw = true) (ht : p.mw = some t)
    (hshape : hasShape2 p.o.toNat p.n.toNat t = false) :
    shapeError i p =
      some (.shapeMismatch .weight [p.o.toNat, p.n.toNat] [t.length, foundColumns p.n.toNat t]) := by
  simp [shapeError, firstError, hr, ht, weightShapeError_of_not_hasShape2 hshape]

theorem shapeError_of_weights {t : List (List Rat)} (hr : (readsOf i).w = true) (ht : p.w = some t)
    (hshape : hasShape2 p.o.toNat p.n.toNat t = false) :
    shapeError i p =
      some (.shapeMismatch .weight [p.o.toNat, p.n.toNat] [t.length, foundColumns p.n.toNat t]) := by
  obtain ⟨hmw, -⟩ : (readsOf i).mw = false ∧ (readsOf i).mb = false := by
    simpa [hr] using readsOf_levels_or_rationals i
  simp [shapeError, firstError, hmw, hr, ht, weightShapeError_of_not_hasShape2 hshape]

/-- R198: the bias table is checked once the weight table has passed. -/
theorem shapeError_of_bias_levels {t : List (List Int)} {u : List Int} (hr : (readsOf i).mb = true)
    (ht : p.mw = some t) (hshape : hasShape2 p.o.toNat p.n.toNat t = true) (hu : p.mb = some u)
    (hlen : u.length ≠ p.o.toNat) :
    shapeError i p = some (.shapeMismatch .bias [p.o.toNat] [u.length]) := by
  obtain ⟨hw, -⟩ : (readsOf i).w = false ∧ (readsOf i).c = false := by
    simpa [hr] using readsOf_levels_or_rationals i
  simp [shapeError, firstError, hw, hr, ht, hu, weightShapeError_of_hasShape2 hshape,
    biasShapeError_of_length_ne hlen]

theorem shapeError_of_bias {t : List (List Rat)} {u : List Rat} (hr : (readsOf i).c = true)
    (ht : p.w = some t) (hshape : hasShape2 p.o.toNat p.n.toNat t = true) (hu : p.c = some u)
    (hlen : u.length ≠ p.o.toNat) :
    shapeError i p = some (.shapeMismatch .bias [p.o.toNat] [u.length]) := by
  obtain ⟨hmw, hmb⟩ : (readsOf i).mw = false ∧ (readsOf i).mb = false := by
    simpa [hr] using readsOf_levels_or_rationals i
  simp [shapeError, firstError, hmw, hmb, hr, ht, hu, weightShapeError_of_hasShape2 hshape,
    biasShapeError_of_length_ne hlen]

end

/-- Settles O23: every check before the shapes passes, so that CONSTRUCT answers with the shape error. -/
theorem shapeMismatchWeightBeforeBias : Obligations.ShapeMismatchWeightBeforeBias := by
  intro s c i hc hi hw hrange hmore o n
  have hraises {e : CoreError}
      (htable : (readsOf i).mw = true ∨ (readsOf i).mb = true ∨ (readsOf i).w = true ∨ (readsOf i).c = true)
      (h : shapeError i c.params = some e) : exec .construct s = .next (afterAnswer s c (.failed e)) := by
    have hconf := configError_eq_none_of_table hw hrange hmore htable
    exact exec_construct_of_failed hc (by rw [buildDesc, hi]; exact build_of_shapeError hconf h)
  exact ⟨fun t hr ht hshape => ⟨_, hraises (.inl hr) (shapeError_of_weight_levels hr ht hshape)⟩,
    fun t hr ht hshape => ⟨_, hraises (.inr (.inr (.inl hr))) (shapeError_of_weights hr ht hshape)⟩,
    fun t u hr ht hshape hu hlen => hraises (.inr (.inl hr)) (shapeError_of_bias_levels hr ht hshape hu hlen),
    fun t u hr ht hshape hu hlen => hraises (.inr (.inr (.inr hr))) (shapeError_of_bias hr ht hshape hu hlen)⟩

end Sys2Proof.Machine

/-! PROOFS of the fast-path family (`spec/44_linear_fastpaths.md`): the rounding modes, the dynamic shift, the HUB
table, the cycles of LIN.HUB and LIN.FXP lane by lane, the error of a quantised product, and the gradients. -/

namespace Sys2Proof.Machine

/-! ### The rows of the fast paths -/

/-- R82: the values of the fields a row reads do not change which bits its operation uses. -/
theorem usedBits_build {r : Row} (hr : r ∈ descRows) (d d' : Desc) :
    usedBits (r.build d) = usedBits (r.build d') := by
  fin_cases hr <;> rfl

theorem usedBits_build_and_mask {r : Row} (hr : r ∈ descRows) (d : Desc) :
    usedBits (r.build d) &&& r.mask = r.mask := by
  have hmask : ∀ r ∈ descRows, usedBits (r.build 0) &&& r.mask = r.mask := by decide
  rw [usedBits_build hr d 0, hmask r hr]

/-- R82, R84 (d): an operation is selected by the bits it uses, at the values its word has there. -/
theorem selectedBy_usedBits {i : Instr} {w : Desc} (hw : encode i = .desc16 w) : SelectedBy i (usedBits i) w := by
  have hdecode : decodeDesc w = .ok i := by simpa [hw, decode] using decode_encode i
  refine fun d => ⟨fun h => ?_, fun h => ?_⟩
  · exact (CodeWord.desc16.inj (hw.symm.trans (encode_of_decodeDesc h))).symm
  · obtain ⟨r, hr, hsel, rfl⟩ := decodeDesc_eq_ok_iff.1 hdecode
    have hpat : d &&& r.mask = r.pat := by
      rw [← usedBits_build_and_mask hr w, ← BitVec.and_assoc, h]
      exact beq_iff_eq.1 hsel
    have hd : decodeDesc d = .ok (r.build d) := decodeDesc_eq_ok_iff.2 ⟨r, hr, beq_iff_eq.2 hpat, rfl⟩
    have hword : encode (r.build d) = encode (r.build w) := by rw [encode_of_decodeDesc hd, usedBits_build hr d w, h, hw]
    have hbuild := (decode_encode (r.build d)).symm.trans ((congrArg decode hword).trans (decode_encode _))
    rw [hd, Except.ok.inj hbuild]

/-! ### Rounding -/

/-- R150: a tie is rounded to the even one of its two neighbours. -/
theorem rnd_round_even_of_tie {q : Rat} (h : |q - (rnd .round q : Rat)| = 1 / 2) : rnd .round q % 2 = 0 := by
  have hle : (q.floor : Rat) ≤ q := Int.floor_le q
  have hlt : q < (q.floor : Rat) + 1 := Int.lt_floor_add_one q
  simp only [rnd, roundHalfEven] at h ⊢
  split_ifs at h ⊢ with hbelow habove heven
  · rw [abs_of_nonneg (sub_nonneg.2 hle)] at h
    exact absurd h hbelow.ne
  · push_cast at h
    rw [abs_of_nonpos (by linarith)] at h
    linarith
  · exact heven
  · omega

/-- R150: every other integer is a whole step from the rounded one, which is at most one half away. -/
theorem abs_sub_rnd_round_le_abs_sub (q : Rat) (z : Int) : |q - (rnd .round q : Rat)| ≤ |q - (z : Rat)| := by
  obtain rfl | hne := eq_or_ne (rnd .round q) z
  · rfl
  · have hstep : (1 : Rat) ≤ |(rnd .round q : Rat) - z| := by
      exact_mod_cast Int.one_le_abs (sub_ne_zero.2 hne)
    have hsplit := abs_sub_le (rnd .round q : Rat) q z
    rw [abs_sub_comm (rnd .round q : Rat) q] at hsplit
    linarith [abs_sub_rnd_round_le q]

/-- Settles O49: floor and ceil are Mathlib's. -/
theorem roundingModesAreExact : Obligations.RoundingModesAreExact := fun q z => by
  have hfloor : rnd .floor q = ⌊q⌋ := ratFloor_eq q
  have hceil : rnd .ceil q = ⌈q⌉ := ratCeil_eq q
  rw [hfloor, hceil]
  exact ⟨⟨Int.floor_le q, Int.le_floor.2⟩, ⟨Int.le_ceil q, Int.ceil_le.2⟩, abs_sub_rnd_round_le_abs_sub q z,
    rnd_round_even_of_tie⟩

/-- R159: the half-width of a mode bounds its error. -/
theorem abs_sub_rnd_le (m : Rounding) (q : Rat) : |q - (rnd m q : Rat)| ≤ roundingUnit m := by
  cases m with
  | round => exact abs_sub_rnd_round_le q
  | floor =>
    rw [rnd, ratFloor_eq, Int.self_sub_floor, Int.abs_fract]
    exact (Int.fract_lt_one q).le
  | ceil =>
    rw [rnd, ratCeil_eq, abs_sub_comm, abs_of_nonneg (sub_nonneg.2 (Int.le_ceil q))]
    exact (sub_lt_iff_lt_add'.2 (Int.ceil_lt_add_one q)).le

/-- In every mode a number of `[0, p]` rounds to a level at most `p`. -/
theorem toNat_rnd_le (m : Rounding) {q : Rat} {p : Nat} (h0 : 0 ≤ q) (hp : q ≤ p) : (rnd m q).toNat ≤ p := by
  rw [Int.toNat_le]
  cases m with
  | round => exact (rnd_round_bounds h0 hp).2
  | floor => exact_mod_cast (Int.floor_le q).trans hp
  | ceil =>
    rw [rnd, ratCeil_eq]
    exact Int.ceil_le.2 hp

/-! ### The dynamic shift -/

/-- R152: the integer logarithms of two numbers place their quotient between powers of two. -/
theorem zpow_log2_bounds {a d : Nat} (ha : a ≠ 0) (hd : d ≠ 0) :
    (2 : Rat) ^ ((a.log2 : Int) - d.log2 - 1) < (a : Rat) / d ∧
      (a : Rat) / d < (2 : Rat) ^ ((a.log2 : Int) - d.log2 + 1) := by
  have halow : (2 : Rat) ^ a.log2 ≤ a := by exact_mod_cast Nat.log2_self_le ha
  have hahigh : (a : Rat) < 2 ^ (a.log2 + 1) := by exact_mod_cast Nat.lt_log2_self
  have hdlow : (2 : Rat) ^ d.log2 ≤ d := by exact_mod_cast Nat.log2_self_le hd
  have hdhigh : (d : Rat) < 2 ^ (d.log2 + 1) := by exact_mod_cast Nat.lt_log2_self
  constructor
  · calc (2 : Rat) ^ ((a.log2 : Int) - d.log2 - 1)
      _ = 2 ^ a.log2 / 2 ^ (d.log2 + 1) := by rw [sub_sub, zpow_sub₀ two_ne_zero]; norm_cast
      _ < a / d := div_lt_div₀' halow hdhigh (by positivity) (by positivity)
  · calc (a : Rat) / d
      _ < 2 ^ (a.log2 + 1) / 2 ^ d.log2 := div_lt_div₀ hahigh hdlow (by positivity) (by positivity)
      _ = (2 : Rat) ^ ((a.log2 : Int) - d.log2 + 1) := by
        rw [sub_add_eq_add_sub, zpow_sub₀ two_ne_zero]; norm_cast

/-- A positive rational is the quotient of the naturals the model takes the logarithms of. -/
theorem toNat_num_div_den {q : Rat} (hq : 0 < q) : (q.num.toNat : Rat) / q.den = q := by
  rw [← Int.cast_natCast q.num.toNat, Int.toNat_of_nonneg (Rat.num_pos.2 hq).le, Rat.num_div_den]

/-- R152: of the two candidate exponents the model takes the upper logarithm of base 2. -/
theorem ceilLog2_eq_clog {q : Rat} (hq : 0 < q) : ceilLog2 q = Int.clog 2 q := by
  have hnum : q.num.toNat ≠ 0 := (Int.pos_iff_toNat_pos.1 (Rat.num_pos.2 hq)).ne'
  obtain ⟨hlow, hhigh⟩ := zpow_log2_bounds hnum q.den_ne_zero
  rw [toNat_num_div_den hq] at hlow hhigh
  have hle {e : Int} (h : q ≤ (2 : Rat) ^ e) : Int.clog 2 q ≤ e :=
    (Int.le_zpow_iff_clog_le one_lt_two hq).1 (by exact_mod_cast h)
  have hlt {e : Int} (h : (2 : Rat) ^ e < q) : e < Int.clog 2 q :=
    (Int.zpow_lt_iff_lt_clog one_lt_two hq).1 (by exact_mod_cast h)
  simp only [ceilLog2, pow2_eq_zpow]
  split_ifs with h
  · exact le_antisymm (Int.sub_one_lt_iff.1 (hlt hlow)) (hle h)
  · exact le_antisymm (Int.add_one_le_of_lt (hlt (not_le.1 h))) (hle hhigh.le)

theorem foldl_max_magnitude_le_iff (v : List Rat) (a r : Rat) :
    v.foldl (fun m q => max m (magnitude q)) a ≤ r ↔ a ≤ r ∧ ∀ q ∈ v, |q| ≤ r := by
  induction v generalizing a with
  | nil => simp
  | cons q v ih =>
    rw [List.foldl_cons, ih, magnitude_eq_abs, max_le_iff, and_assoc, List.forall_mem_cons]

theorem maxMagnitude_le_iff (v : List Rat) (r : Rat) : maxMagnitude v ≤ r ↔ 0 ≤ r ∧ ∀ q ∈ v, |q| ≤ r :=
  foldl_max_magnitude_le_iff v 0 r

theorem maxMagnitude_nonneg (v : List Rat) : 0 ≤ maxMagnitude v :=
  ((maxMagnitude_le_iff v _).1 le_rfl).1

theorem maxMagnitude_eq_zero_iff (v : List Rat) : maxMagnitude v = 0 ↔ ∀ q ∈ v, q = 0 := by
  rw [← (maxMagnitude_nonneg v).ge_iff_eq', maxMagnitude_le_iff]
  simp

/-- Settles O46: a power of two covers every magnitude when it covers the largest. -/
theorem dynamicShiftIsLeast : Obligations.DynamicShiftIsLeast := by
  intro v
  by_cases hzero : maxMagnitude v = 0
  · exact .inl ⟨(maxMagnitude_eq_zero_iff v).1 hzero, if_pos hzero⟩
  · have hpos : 0 < maxMagnitude v := (maxMagnitude_nonneg v).lt_of_ne' hzero
    have hshift : shiftOf v = Int.clog 2 (maxMagnitude v) := (if_neg hzero).trans (ceilLog2_eq_clog hpos)
    have hcovers (e : Int) : (∀ q ∈ v, |q| ≤ (2 : Rat) ^ e) ↔ shiftOf v ≤ e := by
      have hmax := maxMagnitude_le_iff v ((2 : Rat) ^ e)
      rw [hshift, ← Int.le_zpow_iff_clog_le one_lt_two hpos, Nat.cast_ofNat, hmax]
      exact (and_iff_right (by positivity)).symm
    refine .inr ⟨?_, (hcovers _).2 le_rfl, fun e => (hcovers e).1⟩
    simpa [maxMagnitude_eq_zero_iff] using hzero

theorem IsShift.unique {v : List Rat} {e e' : Int} (h : IsShift v e) (h' : IsShift v e') : e = e' := by
  obtain ⟨hzero, rfl⟩ | ⟨⟨q, hq, hne⟩, hcover, hleast⟩ := h <;>
    obtain ⟨hzero', rfl⟩ | ⟨⟨q', hq', hne'⟩, hcover', hleast'⟩ := h'
  · rfl
  · exact absurd (hzero q' hq') hne'
  · exact absurd (hzero' q hq) hne
  · exact le_antisymm (hleast _ hcover') (hleast' _ hcover)

theorem IsShift.abs_le {v : List Rat} {e : Int} (h : IsShift v e) {q : Rat} (hq : q ∈ v) : |q| ≤ (2 : Rat) ^ e := by
  rcases h with ⟨hall, rfl⟩ | ⟨-, hcover, -⟩
  · simp [hall q hq]
  · exact hcover q hq

/-! ### The HUB table -/

/-- The first `a` elements of a table are those read at the indices below `a`. -/
theorem map_at1_range {α : Type} [Inhabited α] {t : List α} {a : Nat} (h : a ≤ t.length) :
    (List.range a).map (at1 t) = t.take a := by
  conv_rhs => rw [← tab1_at1 t, tab1, ← List.map_take, List.take_range, min_eq_left h]

theorem lutEntry_eq {s : List Int} {a : Nat} (w : Nat) (h : a ≤ s.length) :
    lutEntry s a w = ((s.take a).filter (fun v => decide (v < (w : Int)))).length := by
  rw [← map_at1_range h, List.filter_map, List.length_map]
  rfl

/-- R151: more elements and a higher level count no less. -/
theorem length_filter_take_mono (s : List Int) {a a' w w' : Nat} (ha : a ≤ a') (hw : w ≤ w') :
    ((s.take a).filter (fun v => decide (v < (w : Int)))).length ≤
      ((s.take a').filter (fun v => decide (v < (w' : Int)))).length := by
  have hlevel : List.Sublist ((s.take a).filter (fun v => decide (v < (w : Int))))
      ((s.take a).filter (fun v => decide (v < (w' : Int)))) :=
    List.monotone_filter_right _ fun v hv => decide_eq_true ((of_decide_eq_true hv).trans_le (by exact_mod_cast hw))
  exact (hlevel.trans ((List.take_sublist_take_left ha).filter _)).length_le

theorem mem_range_of_legalSequence {p : Nat} {s : List Int} (h : legalSequence p s = true) {v : Int} (hv : v ∈ s) :
    0 ≤ v ∧ v < (p : Int) := by
  simp only [legalSequence, Bool.and_eq_true, List.all_eq_true, decide_eq_true_eq] at h
  obtain ⟨-, hrange⟩ := h
  exact hrange v hv

/-- Settles O45: every entry counts the sequence by definition; the rest is said of the count. -/
theorem hubTableCountsTheSequence : Obligations.HubTableCountsTheSequence := by
  intro bitwidth seq hseq t
  have hlen := length_of_legalSequence hseq
  have hentry (a w : Nat) (ha : a ≤ 2 ^ bitwidth) (hw : w ≤ 2 ^ bitwidth) :
      at2 t a w = ((seq.take a).filter (fun v => decide (v < (w : Int)))).length :=
    (at2_tab2 _ (Nat.lt_succ_of_le ha) (Nat.lt_succ_of_le hw)).trans (lutEntry_eq w (hlen ▸ ha))
  refine ⟨hentry, fun a ha => ⟨?_, ?_, ?_⟩, fun a w a' w' ha hw ha' hw' => ?_, fun hperm w hw => ?_⟩
  · rw [hentry a 0 ha (Nat.zero_le _), List.length_eq_zero_iff, List.filter_eq_nil_iff]
    intro v hv
    obtain ⟨hnonneg, -⟩ := mem_range_of_legalSequence hseq (List.mem_of_mem_take hv)
    simpa using hnonneg
  · rw [hentry 0 a (Nat.zero_le _) ha]
    rfl
  · rw [hentry a _ ha le_rfl, List.filter_eq_self.2, List.length_take, hlen, min_eq_left ha]
    intro v hv
    obtain ⟨-, hlt⟩ := mem_range_of_legalSequence hseq (List.mem_of_mem_take hv)
    exact decide_eq_true hlt
  · rw [hentry a w (ha.trans ha') (hw.trans hw'), hentry a' w' ha' hw']
    exact length_filter_take_mono seq ha hw
  · rw [hentry _ w le_rfl hw, List.take_of_length_le hlen.le, ← List.countP_eq_length_filter]
    exact_mod_cast countP_lt_of_permutation hperm (Int.natCast_nonneg w) (by exact_mod_cast hw)

/-! ### LIN.HUB -/

/-- R84 (c): requesting an operation with the reserved rounding code. -/
theorem exec_reservedRounding {i : Instr} (h : i.wellFormed = false) {s : State} {c : Command}
    (hc : s.commands.head? = some c) : exec i s = .next (afterAnswer s c (.failed (.configuration .invalidRounding))) :=
  (exec_of_not_wellFormed h s).trans (raiseConfiguration_of_presented _ hc)

theorem cast_period (bitwidth : Nat) : ((period bitwidth : Nat) : Rat) = (2 : Rat) ^ bitwidth := by simp [period]

theorem hubLevel_eq (m : Rounding) (bitwidth : Nat) (e : Int) (v : Rat) :
    hubLevel m (period bitwidth) e v = (rnd m (|v| / (2 : Rat) ^ e * (2 : Rat) ^ bitwidth)).toNat := by
  rw [hubLevel, magnitude_eq_abs, pow2_eq_zpow, cast_period]

/-- R152: a value its tensor's shift covers has a level in `[0, P]`. -/
theorem hubLevel_le (m : Rounding) (p : Nat) {e : Int} {v : Rat} (h : |v| ≤ (2 : Rat) ^ e) : hubLevel m p e v ≤ p := by
  have hpow : (0 : Rat) < (2 : Rat) ^ e := by positivity
  rw [hubLevel, magnitude_eq_abs, pow2_eq_zpow]
  exact toNat_rnd_le m (by positivity) (mul_le_of_le_one_left (Nat.cast_nonneg p) ((div_le_one hpow).2 h))

theorem at2_mem_flatten {α : Type} [Inhabited α] {r c i j : Nat} {t : List (List α)} (h : hasShape2 r c t = true)
    (hi : i < r) (hj : j < c) : at2 t i j ∈ t.flatten := by
  obtain ⟨hlen, hrows⟩ := (hasShape2_iff r c t).1 h
  have hi : i < t.length := hlen ▸ hi
  have hj : j < t[i].length := hrows _ (List.getElem_mem hi) ▸ hj
  have hat : at2 t i j = t[i][j] := by simp [at2, at1, hi, hj]
  exact hat ▸ List.mem_flatten_of_mem (List.getElem_mem hi) (List.getElem_mem hj)

theorem real_mem_inputValues {n : Inst} (x : Inputs) {b k : Nat} (hb : b < n.batch) (hk : k < n.n) :
    x.real b k ∈ inputValues n x :=
  at2_tab2 x.real hb hk ▸ at2_mem_flatten (hasShape2_tab2 n.batch n.n x.real) hb hk

/-- Settles O44: the rule's output with its shifts, levels and signs written out. -/
theorem hubStepLooksUpProducts : Obligations.HubStepLooksUpProducts := by
  refine ⟨selectedBy_usedBits rfl, fun _ _ _ hc => exec_reservedRounding rfl hc,
    fun m bias s c n x sx sw hlegal hrun hsx hsw => ?_⟩
  have hexec := (exec_eq_cycle rfl s).trans (cycle_commit hrun (rfl : hubBody m bias n x = _))
  have hx : shiftOf (inputValues n x) = sx := (dynamicShiftIsLeast _).unique hsx
  have hw : shiftOf n.w.flatten = sw := (dynamicShiftIsLeast _).unique hsw
  have hshape : hasShape2 n.o n.n n.w = true := hlegal.w (by rw [hrun.performs]; rfl)
  refine ⟨_, hexec, hasShape2_tab2 .., fun b o hb ho => ?_⟩
  intro level sign count
  have hlevel (e : Int) (v : Rat) : hubLevel m n.period e v = level e v := hubLevel_eq m n.bitwidth e v
  refine ⟨fun k hk => ⟨?_, ?_⟩, ?_⟩
  · rw [← hlevel]
    exact hubLevel_le m n.period (hsx.abs_le (real_mem_inputValues x hb hk))
  · rw [← hlevel]
    exact hubLevel_le m n.period (hsw.abs_le (at2_mem_flatten hshape ho hk))
  · have hcount : hubCount m n x b o = count := by
      simp only [hubCount, hx, hw, hlevel]
      rfl
    rw [at2_tab2 _ hb ho, hcount, hx, hw, pow2_eq_zpow, Inst.period, cast_period]
    rfl

/-! ### LIN.FXP -/

/-- Settles O48: the two budgets of an odd width are its halves rounded up and down. -/
theorem fxpBudgetsSplitTheWidth : Obligations.FxpBudgetsSplitTheWidth := by
  refine fun b more => ⟨rfl, fun heven => ⟨b / 2, if_pos heven, by omega⟩, fun hodd => ?_⟩
  have hne : ¬ b % 2 = 0 := by omega
  have hup : (b + 1) / 2 = (b - 1) / 2 + 1 := by omega
  exact ⟨⟨(b - 1) / 2, hup ▸ if_neg hne, hup ▸ if_neg hne, by omega⟩, if_neg hne, if_neg hne⟩

theorem fxpQuantise_eq (m : Rounding) (k : Nat) (v : Rat) : fxpQuantise m k v = rnd m (v * (2 : Rat) ^ k) := by
  rw [fxpQuantise, pow2_natCast]

/-- Settles O47: the rule's output with its quantised operands written out. -/
theorem fxpStepMultipliesQuantised : Obligations.FxpStepMultipliesQuantised := by
  refine ⟨selectedBy_usedBits rfl, fun _ _ _ _ _ hc => exec_reservedRounding rfl hc,
    fun m bias keep more s c n x hrun => ?_⟩
  have hexec := (exec_eq_cycle rfl s).trans (cycle_commit hrun (rfl : fxpBody m bias n x = _))
  refine ⟨_, hexec, hasShape2_tab2 .., fun b o hb ho => ?_⟩
  simp only [at2_tab2 _ hb ho, pow2_natCast, fxpSum, sumInt, fxpQuantise_eq]
  rfl

/-- R159: what quantising to `k` fractional bits leaves of a value. -/
theorem abs_sub_fxpQuantise_le (m : Rounding) (k : Nat) (v : Rat) :
    |v - (fxpQuantise m k v : Rat) / (2 : Rat) ^ k| ≤ roundingUnit m / (2 : Rat) ^ k := by
  have hpos : (0 : Rat) < (2 : Rat) ^ k := by positivity
  have hscale : v - (fxpQuantise m k v : Rat) / (2 : Rat) ^ k =
      (v * (2 : Rat) ^ k - (rnd m (v * (2 : Rat) ^ k) : Rat)) / (2 : Rat) ^ k := by
    rw [fxpQuantise_eq]
    field_simp
  rw [hscale, abs_div, abs_of_pos hpos]
  exact div_le_div_of_nonneg_right (abs_sub_rnd_le m _) hpos.le

/-- The error of a product of two approximated factors. -/
theorem abs_mul_sub_mul_le {x w x' w' ex ew : Rat} (hx : |x - x'| ≤ ex) (hw : |w - w'| ≤ ew) :
    |x * w - x' * w'| ≤ |w| * ex + |x| * ew + ex * ew := by
  have hsplit : x * w - x' * w' = w * (x - x') + x * (w - w') - (x - x') * (w - w') := by ring
  calc |x * w - x' * w'|
    _ ≤ |w * (x - x')| + |x * (w - w')| + |(x - x') * (w - w')| :=
      hsplit ▸ (abs_sub _ _).trans (add_le_add_left (abs_add_le _ _) _)
    _ ≤ |w| * ex + |x| * ew + ex * ew := by
      simp only [abs_mul]
      have hex : 0 ≤ ex := (abs_nonneg _).trans hx
      gcongr

/-- Settles O50: the two factors' errors, and `2^(bi + bw)` taken apart. -/
theorem fxpProductErrorIsBounded : Obligations.FxpProductErrorIsBounded := by
  intro m bi bw x w u
  have hbound := abs_mul_sub_mul_le (abs_sub_fxpQuantise_le m bi x) (abs_sub_fxpQuantise_le m bw w)
  convert hbound using 1
  · rw [div_mul_div_comm, pow_add, Int.cast_mul]
  · rw [pow_add]
    ring

/-! ### The gradients -/

theorem sumRat_eq_sum (n : Nat) (f : Nat → Rat) : sumRat n f = ∑ i ∈ Finset.range n, f i := rfl

theorem sumRat_congr {n : Nat} {f f' : Nat → Rat} (h : ∀ i, i < n → f i = f' i) : sumRat n f = sumRat n f' :=
  Finset.sum_congr rfl fun i hi => h i (Finset.mem_range.1 hi)

theorem sumRat_comm (m n : Nat) (f : Nat → Nat → Rat) :
    sumRat m (fun i => sumRat n (fun j => f i j)) = sumRat n (fun j => sumRat m (fun i => f i j)) := by
  simp only [sumRat_eq_sum]
  exact Finset.sum_comm

theorem sumRat_mul (n : Nat) (f : Nat → Rat) (a : Rat) : sumRat n f * a = sumRat n (fun i => f i * a) := by
  rw [sumRat_eq_sum, Finset.sum_mul, sumRat_eq_sum]

theorem mul_sumRat (n : Nat) (f : Nat → Rat) (a : Rat) : a * sumRat n f = sumRat n (fun i => a * f i) := by
  rw [sumRat_eq_sum, Finset.mul_sum, sumRat_eq_sum]

/-- R160: a combination of rows times a vector is the combination of the rows' products with it. -/
theorem sumRat_combination (n o : Nat) (g d : Nat → Rat) (w : Nat → Nat → Rat) :
    sumRat n (fun i => sumRat o (fun k => g k * w k i) * d i) =
      sumRat o (fun k => g k * sumRat n (fun i => w k i * d i)) := by
  simp only [sumRat_mul, mul_sumRat, mul_assoc]
  exact sumRat_comm ..

/-- Settles O51: each gradient's entries are read back from its definition, and the sums are exchanged. -/
theorem gradientsAreThoseOfMatrixMultiply : Obligations.GradientsAreThoseOfMatrixMultiply := by
  intro batch n o g x w dx dw dc
  refine ⟨sumRat_congr fun b hb => ?_, ?_, ?_⟩
  · simp only [mul_comm (at2 dx b _), ← sumRat_combination]
    exact sumRat_congr fun i hi => by rw [gradInput, at2_tab2 _ hb hi]
  · rw [sumRat_comm batch o]
    refine sumRat_congr fun k hk => ?_
    rw [← sumRat_combination n batch]
    exact sumRat_congr fun i hi => by rw [gradWeight, at2_tab2 _ hk hi]
  · rw [sumRat_comm batch o]
    refine sumRat_congr fun k hk => ?_
    rw [gradBias, at1_tab1 _ hk, sumRat_mul]

end Sys2Proof.Machine

/-! PROOFS of the ReLU family (`spec/45_relu.md`): the cycles of RELU.RC and RELU.TC lane by lane, the accumulator of
RELU.RC while inputs are 1, and the output of RELU.TC on a thermometer code. The cycle of RELU.SR is with the state
family. -/

namespace Sys2Proof.Machine

/-! ### The rows of RELU.RC and RELU.TC -/

theorem selectedBy_reluRC : SelectedBy .reluRC 0xFE00 0x4000 := selectedBy_usedBits rfl

theorem selectedBy_reluTC : SelectedBy .reluTC 0xFE00 0x4400 := selectedBy_usedBits rfl

theorem not_paramsInRange_of_depth {i : Instr} {p : Params} (hread : (readsOf i).depth = true)
    (hd : p.depth ≤ 0) : ¬ ParamsInRange i p := fun h => by
  obtain ⟨-, -, hdepth, -⟩ := paramsInRange_iff.1 h
  exact absurd (hdepth hread) (by omega)

/-! ### RELU.RC -/

/-- R12: on a non-empty interval a clamp is the smaller of the value and the upper end, raised to the lower end. -/
theorem clamp_eq_max_min {v lo hi : Int} (h : lo ≤ hi) : clamp v lo hi = max lo (min hi v) := by
  unfold clamp
  split_ifs <;> omega

theorem clamp_nonneg {v : Int} {hi : Nat} : 0 ≤ clamp v 0 hi := by
  rw [clamp_eq_max_min (Int.natCast_nonneg hi)]
  exact le_max_left ..

theorem natCast_accMaxOf (depth : Nat) : (accMaxOf depth : Int) = 2 ^ depth - 1 := by
  rw [accMaxOf, Nat.cast_sub Nat.one_le_two_pow]
  push_cast
  rfl

/-- R166: `2·out − 1` is a step up on a 1 and a step down on a 0. -/
theorem add_two_mul_bitNat_sub_one (v : Int) (y : Bool) : v + 2 * (bitNat y : Int) - 1 = v + (if y then 1 else -1) := by
  cases y with
  | false => exact congrArg (· - 1) (Int.add_zero v)
  | true => exact Int.add_sub_assoc v 2 1

/-- R166: one up or down with the output bit, clamped. -/
theorem natCast_rcNext (depth racc : Nat) (x : Bool) :
    (rcNext depth racc x : Int) =
      max 0 (min ((2 : Int) ^ depth - 1) (racc + (if rcOut depth racc x then 1 else -1))) := by
  rw [rcNext, Int.toNat_of_nonneg clamp_nonneg, clamp_eq_max_min (Int.natCast_nonneg _), natCast_accMaxOf,
    add_two_mul_bitNat_sub_one]

/-- Settles O55: the rule commits the lane operations of R166, and `DEPTH ≤ 0` is out of the parameter range. -/
theorem rateReluCycle : Obligations.RateReluCycle := by
  refine ⟨selectedBy_reluRC, fun p hd => build_of_not_paramsInRange rfl rfl (not_paramsInRange_of_depth rfl hd),
    fun s c n x hrun => ?_⟩
  have hexec := (exec_eq_cycle rfl s).trans (cycle_commit hrun (rfl : reluRcBody n x = _))
  refine ⟨_, _, hexec, hasShape2_tab2 .., hasShape2_tab2 .., fun b l hb hl => ?_⟩
  simp only [at2_tab2 _ hb hl]
  exact ⟨rfl, natCast_rcNext ..⟩

/-- R166: on a 1 the output is 1, so the accumulator moves up until it saturates. -/
theorem rcNext_true {depth racc : Nat} (h : racc ≤ accMaxOf depth) :
    rcNext depth racc true = min (accMaxOf depth) (racc + 1) := by
  have hnext := natCast_rcNext depth racc true
  rw [← natCast_accMaxOf] at hnext
  simp only [rcOut, Bool.true_or, if_true] at hnext
  omega

theorem le_rcRun_ones {depth racc : Nat} (k : Nat) (h : racc ≤ accMaxOf depth) :
    racc ≤ rcRun depth racc (List.replicate k true) := by
  induction k generalizing racc with
  | zero => exact Nat.le_refl racc
  | succ k ih =>
    have hnext := rcNext_true h
    calc racc
      _ ≤ rcNext depth racc true := by omega
      _ ≤ rcRun depth (rcNext depth racc true) (List.replicate k true) := ih (by omega)

/-- Settles O56: the accumulator never falls on ones, so in particular not below the midpoint. -/
theorem rateReluKeepsTheMidpointOnOnes : Obligations.RateReluKeepsTheMidpointOnOnes := by
  intro depth racc k _ hmax
  have hle := le_rcRun_ones k hmax
  exact ⟨hle, fun hhalf => hhalf.trans hle⟩

/-! ### RELU.TC -/

/-- Settles O58: the rule commits the lane operations of R174, and `B ≤ 0` is out of the parameter range. -/
theorem temporalReluCycle : Obligations.TemporalReluCycle := by
  refine ⟨selectedBy_reluTC, fun p hb => build_of_not_paramsInRange rfl rfl (not_paramsInRange_of_bitwidth rfl hb),
    fun s c n x hrun => ?_⟩
  have hexec := (exec_eq_cycle rfl s).trans (cycle_commit hrun (rfl : reluTcBody n x = _))
  exact ⟨_, _, hexec, hasShape2_tab2 .., hasShape2_tab2 .., fun b l hb hl =>
    ⟨at2_tab2 _ hb hl, at2_tab2 _ hb hl⟩⟩

theorem tcStream_append (t cyc tacc : Nat) (xs ys : List Bool) :
    tcStream t cyc tacc (xs ++ ys) =
      tcStream t cyc tacc xs ++ tcStream t (cyc + xs.length) (tacc + xs.count true) ys := by
  induction xs generalizing cyc tacc with
  | nil => rfl
  | cons x xs ih =>
    simp only [List.cons_append, tcStream, ih, List.length_cons, count_true_cons]
    congr 3 <;> omega

/-- R174: while every input bit so far was 1, the counts agree and both halves emit 1. -/
theorem tcOut_ones (t c : Nat) : tcOut t c c true = true := by
  unfold tcOut
  split_ifs with h
  · exact decide_eq_true h
  · exact decide_eq_true (Nat.le_refl (c + 1))

/-- R174: on a 0 the second half emits 0, and the first half 1 if there were at most as many ones as cycles. -/
theorem tcOut_false {t cyc tacc : Nat} (h : tacc ≤ cyc) : tcOut t cyc tacc false = decide (cyc < t) := by
  unfold tcOut
  split_ifs with hhalf
  · exact (decide_eq_false (by omega)).symm
  · have hcount : tacc + bitNat false ≤ cyc + 1 := Nat.le_succ_of_le h
    rw [decide_eq_true hcount, decide_eq_true (by omega)]

theorem tcStream_ones (t c k : Nat) : tcStream t c c (List.replicate k true) = List.replicate k true := by
  induction k generalizing c with
  | zero => rfl
  | succ k ih =>
    rw [List.replicate_succ, tcStream, tcOut_ones]
    exact congrArg _ (ih (c + 1))

/-- R174: zeros come out as ones until the end of the first half, and as zeros from then on. -/
theorem tcStream_zeros {t cyc tacc : Nat} (k : Nat) (h : tacc ≤ cyc) :
    tcStream t cyc tacc (List.replicate k false) =
      List.replicate (min k (t - cyc)) true ++ List.replicate (k - (t - cyc)) false := by
  induction k generalizing cyc with
  | zero => simp [tcStream]
  | succ k ih =>
    have hrest : tcStream t (cyc + 1) (tacc + bitNat false) (List.replicate k false) = _ := ih (Nat.le_succ_of_le h)
    rw [List.replicate_succ, tcStream, hrest, tcOut_false h]
    by_cases hhalf : cyc < t
    · have hleft : t - cyc = t - (cyc + 1) + 1 := by omega
      rw [hleft, Nat.add_min_add_right, Nat.add_sub_add_right, List.replicate_succ, decide_eq_true hhalf]
      rfl
    · have hleft : t - cyc = 0 := by omega
      have hleft' : t - (cyc + 1) = 0 := by omega
      simp [hleft, hleft', hhalf, List.replicate_succ]

/-- Settles O59: the ones pass, and the zeros after them are ones up to the end of the first half. -/
theorem temporalReluClampsThermometers : Obligations.TemporalReluClampsThermometers := by
  intro bitwidth ones _ hones t
  have hperiod : t ≤ 2 ^ bitwidth := Nat.pow_le_pow_right Nat.two_pos (Nat.sub_le bitwidth 1)
  have hfirst : ones + min (2 ^ bitwidth - ones) (t - ones) = max ones t := by omega
  have hsecond : 2 ^ bitwidth - ones - (t - ones) = 2 ^ bitwidth - max ones t := by omega
  rw [tcStream_append, tcStream_ones, List.length_replicate, List.count_replicate_self, Nat.zero_add,
    tcStream_zeros _ (Nat.le_refl ones), ← List.append_assoc, List.replicate_append_replicate, hfirst, hsecond]

end Sys2Proof.Machine

/-! PROOFS of the command family (`spec/46_commands.md`): every command completes, a STEP commits a cycle and may be
fed from the cycle another unit just ran, CONSTRUCT makes a unit exactly of an admissible record, and REPLACE writes
one table or is refused. -/

namespace Sys2Proof.Machine

/-! ### STEP -/

/-- Settles O6: the rule of the addressed unit's operation commits, and STEP runs that rule. -/
theorem stepCommandCommitsACycle : Obligations.StepCommandCommitsACycle := by
  intro s c n x hlegal hrun hmux
  obtain ⟨body, hbody⟩ := exists_bodyOf_of_legal hlegal
  obtain ⟨r, y, hres⟩ : ∃ r y, body n x = .commit r y := exists_commit_of_body hbody hmux
  refine ⟨r, y, ?_⟩
  calc exec .step s
    _ = runOperation n.op s := execStep_of_addressed hrun.presented hrun.addressed
    _ = cycle n.op body s := runOperation_eq_cycle hbody s
    _ = .next (afterCycle s c n r y) := cycle_commit hrun hres

/-! ### What CONSTRUCT answers -/

section

variable {s : State} {c : Command}

theorem exec_construct_of_refused {why : Decline} (hc : s.commands.head? = some c)
    (h : buildDesc c.desc c.params = .refused why) :
    exec .construct s = .next (afterAnswer s c (.declined why)) := by
  rw [exec_construct, execConstruct, commands_eq_cons hc]
  simp only [h]
  rfl

theorem exec_construct_of_made {n : Inst} (hc : s.commands.head? = some c)
    (h : buildDesc c.desc c.params = .made n) :
    exec .construct s = .next (answer { s with insts := s.insts ++ [n] } c (.constructed s.insts.length)) := by
  rw [exec_construct, execConstruct, commands_eq_cons hc]
  simp only [h]

/-- R181: without a unit made, CONSTRUCT answers with an error or a refusal and changes nothing else. -/
theorem exec_construct_of_not_made (hc : s.commands.head? = some c)
    (h : ∀ n, buildDesc c.desc c.params ≠ .made n) :
    ∃ r, exec .construct s = .next (afterAnswer s c r) ∧ ((∃ e, r = .failed e) ∨ ∃ why, r = .declined why) := by
  cases hbuild : buildDesc c.desc c.params with
  | made n => exact absurd hbuild (h n)
  | failed e => exact ⟨_, exec_construct_of_failed hc hbuild, .inl ⟨e, rfl⟩⟩
  | refused why => exact ⟨_, exec_construct_of_refused hc hbuild, .inr ⟨why, rfl⟩⟩

theorem exists_exec_construct (hc : s.commands.head? = some c) : ∃ t, exec .construct s = .next t := by
  by_cases h : ∃ n, buildDesc c.desc c.params = .made n
  · obtain ⟨n, hn⟩ := h
    exact ⟨_, exec_construct_of_made hc hn⟩
  · obtain ⟨r, hr, -⟩ := exec_construct_of_not_made hc (not_exists.1 h)
    exact ⟨_, hr⟩

end

/-- Settles O7, by the command code: CONSTRUCT and the reserved code always answer, and STEP and REPLACE do on legal
units. -/
theorem everyCommandCompletes : Obligations.EveryCommandCompletes := by
  intro s hlegal
  obtain ⟨-, -, hidle⟩ := stepRunsTheDecodedInstruction
  cases hc : s.commands.head? with
  | none => exact ⟨s, hidle s (List.head?_eq_none_iff.1 hc)⟩
  | some c =>
    have hanswers (hcode : c.code = 1 ∨ c.code = 2) : ∃ t, step s = .next t := by
      obtain ⟨f, r, h⟩ := step_answersBy hcode (c.feed.resolve s.reports)
        fun n hn => hlegal n (List.mem_of_getElem? (Option.mem_def.1 hn))
      exact ⟨_, h s hc rfl rfl⟩
    rcases code_cases c.code with hcode | hcode | hcode | hcode
    · rw [step_of_presented hc, hcode]
      exact exists_exec_construct hc
    · exact hanswers (.inl hcode)
    · exact hanswers (.inr hcode)
    · obtain ⟨-, hrefused⟩ := reservedCommandIsRefused s c hc
      exact ⟨_, hrefused hcode⟩

/-! ### The feed of a STEP -/

/-- The state whose next command has another feed. -/
def refeed (s : State) (c : Command) (f : Feed) : State :=
  { s with commands := { c with feed := f } :: s.commands.tail }

section

variable {s : State} {c : Command} {f : Feed}

/-- A cycle reads of the feed only the inputs it stands for. -/
theorem cycle_refeed (i : Instr) (body : Inst → Inputs → CycleResult) (hc : s.commands.head? = some c)
    (hf : f.resolve s.reports = c.feed.resolve s.reports) : cycle i body (refeed s c f) = cycle i body s := by
  rw [cycle, cycle, commands_eq_cons hc]
  simp only [refeed, hf]
  rfl

theorem raiseConfiguration_refeed (cause : ConfigCause) (hc : s.commands.head? = some c) :
    raiseConfiguration cause (refeed s c f) = raiseConfiguration cause s := by
  rw [raiseConfiguration, raiseConfiguration, commands_eq_cons hc]
  rfl

/-- The rows that cannot be constructed (R84 (b), (c)) and the command codes read no inputs at all. -/
theorem runOperation_refeed (i : Instr) (hc : s.commands.head? = some c)
    (hf : f.resolve s.reports = c.feed.resolve s.reports) :
    runOperation i (refeed s c f) = runOperation i s := by
  cases hbody : bodyOf i with
  | some body =>
    rw [runOperation_eq_cycle hbody, runOperation_eq_cycle hbody]
    exact cycle_refeed i body hc hf
  | none =>
    cases i with
    | linHUB _ rnd | linFXP _ rnd =>
      cases rnd with
      | mode m => cases hbody
      | reserved => exact raiseConfiguration_refeed _ hc
    | mulIS | addGNSB => exact raiseConfiguration_refeed _ hc
    | construct | step | replace | cmdReserved => rfl
    | _ => cases hbody

/-- R185: a STEP is the same whichever feed it gets its inputs from. -/
theorem step_refeed (hc : s.commands.head? = some c) (hcode : c.code = 1)
    (hf : f.resolve s.reports = c.feed.resolve s.reports) : step (refeed s c f) = step s := by
  have hc' : (refeed s c f).commands.head? = some { c with feed := f } := rfl
  rw [step_of_presented hc', step_of_presented hc]
  simp only [hcode]
  change execStep (refeed s c f) = execStep s
  cases hn : s.insts[c.inst]? with
  | none =>
    rw [execStep, execStep, commands_eq_cons hc]
    simp only [refeed, hn]
    rfl
  | some n =>
    rw [execStep_of_addressed hc' hn, execStep_of_addressed hc hn]
    exact runOperation_refeed n.op hc hf

end

/-- R185: of one part, side by side is that part. -/
theorem besides_singleton {α : Type} (y : List (List α)) : besides [y] = some y := by
  simp [besides, tab1_at1]

theorem lastOutput_of_head {reports : List Report} {k : Nat} {y : Outputs}
    (h : reports.head? = some { code := 1, inst := k, response := .stepped y }) : lastOutput reports k = some y := by
  obtain ⟨rest, rfl⟩ := List.head?_eq_some_iff.1 h
  simp [lastOutput]

theorem resolve_lanesOf_singleton {reports : List Report} {k : Nat} {y : List (List Bool)}
    (h : lastOutput reports k = some (.bits y)) : (Feed.lanesOf [k]).resolve reports = some (.lanes y) := by
  simp [Feed.resolve, h, allSome, Outputs.bits?, besides_singleton]

/-- Settles O17: the wired feed and the given bits stand for the same inputs. -/
theorem wiredStepUsesTheSameCycleOutput : Obligations.WiredStepUsesTheSameCycleOutput := by
  intro s t a c y _ hcodea _ hreport hc hcode hfeed
  have hinputs : c.feed.resolve t.reports = some (.lanes y) := by
    rw [hfeed]
    exact resolve_lanesOf_singleton (lastOutput_of_head (hcodea ▸ hreport))
  have hgiven : (Feed.given (.lanes y)).resolve t.reports = c.feed.resolve t.reports := hinputs.symm
  exact (step_refeed hc hcode hgiven).symm

/-! ### REPLACE -/

/-- R62: the range of a level, in the spec's words. -/
theorem legalLevel_period_iff {b : Nat} {v : Int} : legalLevel (period b) v = true ↔ 0 ≤ v ∧ v ≤ (2 : Int) ^ b := by
  simp [legalLevel, period]

section

variable {s : State} {c : Command} {n : Inst}

theorem exec_replace_of_error {why : Decline} (hc : s.commands.head? = some c) (hn : s.insts[c.inst]? = some n)
    (hlive : n.dead = false) (h : replaceTable n c.which c.table = .error why) :
    exec .replace s = .next (afterAnswer s c (.declined why)) := by
  change execReplace s = _
  rw [execReplace, commands_eq_cons hc]
  simp only [hn, Inst.isDead, hlive, h, Bool.false_eq_true, if_false]
  rfl

theorem exec_replace_of_ok {n' : Inst} (hc : s.commands.head? = some c) (hn : s.insts[c.inst]? = some n)
    (hlive : n.dead = false) (h : replaceTable n c.which c.table = .ok n') :
    exec .replace s = .next (answer (setInst s c.inst n') c .replaced) := by
  change execReplace s = _
  rw [execReplace, commands_eq_cons hc]
  simp only [hn, Inst.isDead, hlive, h, Bool.false_eq_true, if_false]

end

/-- Settles O27: for each selector, no check of the new table fails. -/
theorem replaceChangesOnlyTheTable : Obligations.ReplaceChangesOnlyTheTable := by
  intro s c n hc hn hlive done legal
  have hdone {n' : Inst} (h : replaceTable n c.which c.table = .ok n') : done n' :=
    exec_replace_of_ok hc hn hlive h
  have hlevels {v : List Int} (h : ∀ l ∈ v, legal l) : v.all (legalLevel n.period) = true :=
    List.all_eq_true.2 fun l hl => legalLevel_period_iff.2 (h l hl)
  refine ⟨fun v hw ht hr hlen hlegal => hdone ?_, fun v hw ht hr hshape hlegal => hdone ?_,
    fun v hw ht hr hlen hlegal => hdone ?_, fun v hw ht hr hshape => hdone ?_, fun v hw ht hr hlen => hdone ?_⟩
  · simp [hw, ht, replaceTable, hr, hasShape1, hlen, hlevels hlegal]
  · have hrows : v.all (fun u => u.all (legalLevel n.period)) = true :=
      List.all_eq_true.2 fun u hu => hlevels (hlegal u hu)
    simp only [hw, ht, replaceTable, hr, hshape, hrows, Bool.not_true, Bool.false_eq_true, if_false]
  · simp [hw, ht, replaceTable, hr, hasShape1, hlen, hlevels hlegal]
  · simp only [hw, ht, replaceTable, hr, hshape, Bool.not_true, Bool.false_eq_true, if_false]
  · simp [hw, ht, replaceTable, hr, hasShape1, hlen]

section

variable {n : Inst} {which : Which} {t : Table}

theorem replaceTable_of_not_hasTable (h : hasTable n.op which = false) :
    replaceTable n which t = .error .noSuchTable := by
  cases which <;> simp only [hasTable] at h
  all_goals cases t <;> simp [replaceTable, h]

/-- R183: of a table of the selected kind the shape is checked; a table of another kind is refused as well. -/
theorem replaceTable_of_not_tableFits (h : hasTable n.op which = true) (ht : ¬ n.TableFits which t) :
    replaceTable n which t = .error .tableShape := by
  unfold replaceTable
  split <;> simp only [hasTable] at h
  case h_1 v | h_3 v | h_5 v =>
    have hlen : v.length ≠ _ := fun hlen => ht ⟨v, rfl, hlen⟩
    simp [h, hasShape1, hlen]
  case h_2 v | h_4 v =>
    have hshape : ¬ hasShape2 n.o n.n v = true := fun hv => ht ⟨v, rfl, (hasShape2_iff ..).1 hv⟩
    simp only [h, hshape]
    rfl
  all_goals simp [h]

/-- A rational tensor has no level to be out of range. -/
theorem replaceTable_of_levelRange (h : hasTable n.op which = true) (ht : n.TableFits which t)
    {l : Int} (hl : l ∈ t.levels) (hrange : legalLevel n.period l = false) :
    replaceTable n which t = .error .levelRange := by
  have hsome {v : List Int} (hv : l ∈ v) : v.all (legalLevel n.period) = false :=
    List.all_eq_false.2 ⟨l, hv, by simp [hrange]⟩
  cases which <;> simp only [hasTable] at h
  case levels | biasLevels =>
    obtain ⟨v, rfl, hlen⟩ := ht
    simp only [replaceTable, h, (hasShape1_iff ..).2 hlen, hsome (v := v) hl]
    rfl
  case weightLevels =>
    obtain ⟨v, rfl, hshape⟩ := ht
    obtain ⟨u, hu, hlu⟩ := List.mem_flatten.1 hl
    have hrows : v.all (fun u => u.all (legalLevel n.period)) = false :=
      List.all_eq_false.2 ⟨u, hu, by simp [hsome hlu]⟩
    simp only [replaceTable, h, (hasShape2_iff ..).2 hshape, hrows]
    rfl
  case weights | bias =>
    obtain ⟨v, rfl, -⟩ := ht
    cases hl

end

/-- Settles O28: the three checks in their order, each with its refusal. -/
theorem illegalReplaceIsRefused : Obligations.IllegalReplaceIsRefused := by
  intro s c n hc hn hlive refused
  have hrefused {why : Decline} (h : replaceTable n c.which c.table = .error why) : refused why :=
    exec_replace_of_error hc hn hlive h
  refine ⟨fun h => hrefused (replaceTable_of_not_hasTable h),
    fun h ht => hrefused (replaceTable_of_not_tableFits h ht), fun h ht ⟨l, hl, hrange⟩ => ?_⟩
  have hbad : legalLevel n.period l = false := by
    rw [← Bool.not_eq_true, Inst.period, legalLevel_period_iff]
    omega
  exact hrefused (replaceTable_of_levelRange h ht hl hbad)

/-! ### The records CONSTRUCT accepts -/

section

variable {i : Instr} {p : Params}

theorem illegalRow_eq_none_iff : illegalRow i = none ↔ i ≠ .mulIS ∧ i ≠ .addGNSB := by
  refine ⟨fun h => ⟨?_, ?_⟩, fun ⟨h, h'⟩ => illegalRow_eq_none h h'⟩
  · rintro rfl
    cases h
  · rintro rfl
    cases h

theorem badDepth_eq_false_iff : badDepth i p = false ↔ (i = .reluSR → p.depth ≤ 127) := by
  cases i <;> simp [badDepth, Config.reluSrDepthMax]

/-- R191, R198: the five checks of the configuration, in the words of R181. -/
theorem configError_eq_none_iff :
    configError i p = none ↔ (i ≠ .mulIS ∧ i ≠ .addGNSB) ∧ i.wellFormed = true ∧ ParamsInRange i p ∧
      (i = .reluSR → p.depth ≤ 127) ∧ ¬ MoreResInvalid i p := by
  rw [configError_eq_none, illegalRow_eq_none_iff, badRounding_eq_not_wellFormed, Bool.not_eq_false',
    badParameter_eq_false_iff, badDepth_eq_false_iff]
  refine and_congr_right fun _ => and_congr_right fun _ => and_congr_right fun hrange => and_congr_right fun _ => ?_
  refine ⟨fun h hmore => ?_, badMoreRes_eq_false⟩
  cases h.symm.trans (badMoreRes_of_invalid hrange hmore)

/-- Where a row reads a table, that table is supplied and has the property. -/
theorem supplied_iff {α : Type} {read : Bool} {t : Option α} {ok : α → Prop} :
    (read = true → ∃ v, t = some v ∧ ok v) ↔
      (read = true → t.isNone = false) ∧ (read = true → ∀ v, t = some v → ok v) := by
  cases t <;> simp

/-- The MUX index table has no default and at least one entry (R64). -/
theorem getD_nil_isEmpty_eq_false_iff {α : Type} {t : Option (List α)} :
    (t.getD []).isEmpty = false ↔ ∃ v, t = some v ∧ v ≠ [] := by
  cases t <;> simp

/-- U13: the tables that have no default are supplied where they are read. -/
theorem missingTable_eq_false_iff :
    missingTable i p = false ↔
      ((readsOf i).seq = true → p.seq.isNone = false) ∧
        ((readsOf i).mux = true → ∃ t, p.muxSeq = some t ∧ t ≠ []) ∧
        ((readsOf i).m = true → p.m.isNone = false) ∧ ((readsOf i).mw = true → p.mw.isNone = false) ∧
        ((readsOf i).mb = true → p.mb.isNone = false) ∧ ((readsOf i).w = true → p.w.isNone = false) ∧
        ((readsOf i).c = true → p.c.isNone = false) := by
  simp only [missingTable, Bool.or_eq_false_iff, Bool.and_eq_false_imp, getD_nil_isEmpty_eq_false_iff, and_assoc]

theorem weightShapeError_eq_none_iff {α : Type} {o n : Nat} {t : Option (List (List α))} :
    weightShapeError o n t = none ↔ ∀ v, t = some v → hasShape2 o n v = true := by
  cases t <;> simp [weightShapeError]

theorem biasShapeError_eq_none_iff {α : Type} {o : Nat} {t : Option (List α)} :
    biasShapeError o t = none ↔ ∀ v, t = some v → v.length = o := by
  cases t <;> simp [biasShapeError]

/-- R192: the supplied weight and bias tables that the row reads have their shapes. -/
theorem shapeError_eq_none_iff :
    shapeError i p = none ↔
      ((readsOf i).mw = true → ∀ t, p.mw = some t → hasShape2 p.o.toNat p.n.toNat t = true) ∧
        ((readsOf i).w = true → ∀ t, p.w = some t → hasShape2 p.o.toNat p.n.toNat t = true) ∧
        ((readsOf i).mb = true → ∀ t, p.mb = some t → t.length = p.o.toNat) ∧
        ((readsOf i).c = true → ∀ t, p.c = some t → t.length = p.o.toNat) := by
  simp only [← weightShapeError_eq_none_iff, ← biasShapeError_eq_none_iff]
  simp [shapeError, firstError_eq_none]

/-- R60, R62: the tables of the generators come with the bit width; the second and the bias generator with the
first, the levels of one lane each with `E`. -/
theorem readsOf_of_table (i : Instr) :
    ((readsOf i).seq = true → (readsOf i).bitwidth = true) ∧ ((readsOf i).seq0 = true → (readsOf i).seq = true) ∧
      ((readsOf i).seqb = true → (readsOf i).seq = true) ∧
      ((readsOf i).m = true → (readsOf i).bitwidth = true ∧ (readsOf i).lanes = true) ∧
      ((readsOf i).mw = true → (readsOf i).bitwidth = true) ∧
      ((readsOf i).mb = true → (readsOf i).bitwidth = true) := by
  cases i <;> simp [readsOf, Reads.none]

theorem makeInst_seq (p : Params) (h : (readsOf i).seq = true) : (makeInst i p).seq = p.seq.getD [] :=
  whenRead_of_read h _

theorem makeInst_seq0 (p : Params) (h : (readsOf i).seq0 = true) :
    (makeInst i p).seq0 = p.seq0.getD (p.seq.getD []) := whenRead_of_read h _

theorem makeInst_seqb (p : Params) (h : (readsOf i).seqb = true) :
    (makeInst i p).seqb = p.seqb.getD (p.seq.getD []) := whenRead_of_read h _

theorem makeInst_m (p : Params) (h : (readsOf i).m = true) : (makeInst i p).m = p.m.getD [] := whenRead_of_read h _

theorem legalLevel_makeInst_iff (hb : (readsOf i).bitwidth = true) (v : Int) :
    legalLevel (makeInst i p).period v = true ↔ LevelLegal p.bitwidth v := by
  rw [Inst.period, makeInst_bitwidth p hb]
  exact legalLevel_period_iff

theorem legalSequence_makeInst_iff (hb : (readsOf i).bitwidth = true) (t : List Int) :
    legalSequence (makeInst i p).period t = true ↔ SequenceLegal p.bitwidth t := by
  rw [Inst.period, makeInst_bitwidth p hb]
  simp [legalSequence, period, SequenceLegal]

theorem ok_getD_iff {α : Type} {t : Option α} {d : α} {ok : α → Prop} (hd : ok d) :
    ok (t.getD d) ↔ ∀ v, t = some v → ok v := by
  cases t <;> simp [hd]

/-- R60, R113, R135: the second and the bias sequence default to the first, which honours the contract, so only the
given ones are left to honour it. -/
theorem badSequence_eq_false_iff (hseq : (readsOf i).seq = true → p.seq.isNone = false) :
    badSequence i p = false ↔
      ((readsOf i).seq = true → ∀ t, p.seq = some t → SequenceLegal p.bitwidth t) ∧
        ((readsOf i).seq0 = true → ∀ t, p.seq0 = some t → SequenceLegal p.bitwidth t) ∧
        ((readsOf i).seqb = true → ∀ t, p.seqb = some t → SequenceLegal p.bitwidth t) := by
  obtain ⟨hbitwidth, hseq0, hseqb, -⟩ := readsOf_of_table i
  simp only [badSequence, Bool.or_eq_false_iff, Bool.and_eq_false_imp, Bool.not_eq_false', and_assoc]
  by_cases hr : (readsOf i).seq = true
  · obtain ⟨t, ht⟩ := Option.isSome_iff_exists.1 (Option.isNone_eq_false_iff.1 (hseq hr))
    simp only [legalSequence_makeInst_iff (hbitwidth hr)]
    have hfirst : (makeInst i p).seq = t := by rw [makeInst_seq p hr, ht]; rfl
    rw [hfirst]
    simp only [hr, ht, forall_const, Option.some.injEq, forall_eq']
    refine and_congr_right fun hlegal => and_congr (forall_congr' fun hr0 => ?_) (forall_congr' fun hrb => ?_)
    · rw [makeInst_seq0 p hr0, ht]
      exact ok_getD_iff hlegal
    · rw [makeInst_seqb p hrb, ht]
      exact ok_getD_iff hlegal
  · simp [hr, mt hseq0 hr, mt hseqb hr]

theorem badLevelLength_eq_false_iff (hm : (readsOf i).m = true → p.m.isNone = false) :
    badLevelLength i p = false ↔ ((readsOf i).m = true → ∀ t, p.m = some t → t.length = p.e.toNat) := by
  obtain ⟨-, -, -, hlanes, -⟩ := readsOf_of_table i
  simp only [badLevelLength, Bool.and_eq_false_imp, Bool.not_eq_false', hasShape1_iff]
  refine forall_congr' fun hr => ?_
  obtain ⟨t, ht⟩ := Option.isSome_iff_exists.1 (Option.isNone_eq_false_iff.1 (hm hr))
  rw [makeInst_m p hr, makeInst_e p (hlanes hr).2, ht]
  simp

/-- A table that is not read, or not supplied, is empty. -/
theorem forall_mem_whenRead_getD {α : Type} {read : Bool} {t : Option (List α)} {ok : α → Prop} :
    (∀ v ∈ whenRead read (t.getD []), ok v) ↔ (read = true → ∀ u, t = some u → ∀ v ∈ u, ok v) := by
  cases read with
  | false => exact ⟨fun _ h => (by cases h), fun _ _ h => (by cases h)⟩
  | true => cases t <;> simp [whenRead]

/-- U1: the levels that are read are in range. -/
theorem badLevel_eq_false_iff :
    badLevel i p = false ↔
      ((readsOf i).m = true → ∀ t, p.m = some t → ∀ v ∈ t, LevelLegal p.bitwidth v) ∧
        ((readsOf i).mw = true → ∀ t, p.mw = some t → ∀ u ∈ t, ∀ v ∈ u, LevelLegal p.bitwidth v) ∧
        ((readsOf i).mb = true → ∀ t, p.mb = some t → ∀ v ∈ t, LevelLegal p.bitwidth v) := by
  obtain ⟨-, -, -, hm, hmw, hmb⟩ := readsOf_of_table i
  simp only [badLevel, Bool.not_eq_false', Bool.and_eq_true, List.all_eq_true, and_assoc]
  refine and_congr ?_ (and_congr ?_ ?_) <;> refine forall_mem_whenRead_getD.trans (forall_congr' fun hr => ?_)
  · simp only [legalLevel_makeInst_iff (hm hr).1]
  · simp only [legalLevel_makeInst_iff (hmw hr)]
  · simp only [legalLevel_makeInst_iff (hmb hr)]

/-- R181: a record violates nothing exactly when every check of CONSTRUCT passes. -/
theorem admissible_iff :
    Admissible i p ↔ configError i p = none ∧ shapeError i p = none ∧ constructRefusal i p = none := by
  rw [configError_eq_none_iff, shapeError_eq_none_iff, constructRefusal_eq_none, missingTable_eq_false_iff,
    badLevel_eq_false_iff]
  constructor
  · intro h
    obtain ⟨hseq, hseqok⟩ := supplied_iff.1 h.seq
    obtain ⟨hm, hmok⟩ := supplied_iff.1 h.m
    obtain ⟨hmw, hmwok⟩ := supplied_iff.1 h.mw
    obtain ⟨hmb, hmbok⟩ := supplied_iff.1 h.mb
    obtain ⟨hw, hwok⟩ := supplied_iff.1 h.w
    obtain ⟨hc, hcok⟩ := supplied_iff.1 h.c
    rw [badSequence_eq_false_iff hseq, badLevelLength_eq_false_iff hm]
    exact ⟨⟨⟨h.notInStream, h.notGaines⟩, h.fields, h.params, h.smoothDepth, h.moreRes⟩,
      ⟨fun hr t ht => (hmwok hr t ht).1, hwok, fun hr t ht => (hmbok hr t ht).1, hcok⟩,
      ⟨hseq, h.mux, hm, hmw, hmb, hw, hc⟩, ⟨hseqok, h.seq0, h.seqb⟩, fun hr t ht => (hmok hr t ht).1,
      fun hr t ht => (hmok hr t ht).2, fun hr t ht => (hmwok hr t ht).2, fun hr t ht => (hmbok hr t ht).2⟩
  · rintro ⟨⟨⟨his, hgnsb⟩, hfields, hparams, hdepth, hmore⟩, ⟨hmwshape, hwshape, hmblen, hclen⟩,
      ⟨hseq, hmux, hm, hmw, hmb, hw, hc⟩, hsequence, hlength, hmrange, hmwrange, hmbrange⟩
    obtain ⟨hseqok, hseq0ok, hseqbok⟩ := (badSequence_eq_false_iff hseq).1 hsequence
    have hmlen := (badLevelLength_eq_false_iff hm).1 hlength
    exact
      { notInStream := his, notGaines := hgnsb, fields := hfields, params := hparams, smoothDepth := hdepth
        moreRes := hmore, seq := supplied_iff.2 ⟨hseq, hseqok⟩, seq0 := hseq0ok, seqb := hseqbok, mux := hmux
        m := supplied_iff.2 ⟨hm, fun hr t ht => ⟨hmlen hr t ht, hmrange hr t ht⟩⟩
        mw := supplied_iff.2 ⟨hmw, fun hr t ht => ⟨hmwshape hr t ht, hmwrange hr t ht⟩⟩
        mb := supplied_iff.2 ⟨hmb, fun hr t ht => ⟨hmblen hr t ht, hmbrange hr t ht⟩⟩
        w := supplied_iff.2 ⟨hw, hwshape⟩, c := supplied_iff.2 ⟨hc, hclen⟩ }

theorem build_made_of_admissible (h : Admissible i p) : build i p = .made (makeInst i p) := by
  obtain ⟨hconf, hshape, href⟩ := admissible_iff.1 h
  exact (build_made_iff i p _).2 ⟨hconf, hshape, href, rfl⟩

theorem admissible_of_build_made {n : Inst} (h : build i p = .made n) : Admissible i p := by
  obtain ⟨hconf, hshape, href, -⟩ := (build_made_iff i p n).1 h
  exact admissible_iff.2 ⟨hconf, hshape, href⟩

end

/-- A table that is read and has no default is kept as it was supplied. -/
theorem eq_some_whenRead_getD {α : Type} [Inhabited α] {read : Bool} {t : Option α} {d : α}
    (h : read = true → t.isNone = false) (hread : read = true) : t = some (whenRead read (t.getD d)) := by
  obtain ⟨v, rfl⟩ := Option.isSome_iff_exists.1 (Option.isNone_eq_false_iff.1 (h hread))
  rw [whenRead_of_read hread]
  rfl

/-- R40 to R46: the unit made of an admissible record has the sizes given. -/
theorem makeInst_sizes {i : Instr} {p : Params} (h : ParamsInRange i p) :
    ((makeInst i p).batch : Int) = p.batch ∧
      ((readsOf i).bitwidth = true → ((makeInst i p).bitwidth : Int) = p.bitwidth) ∧
      ((readsOf i).depth = true → ((makeInst i p).depth : Int) = p.depth) ∧
      ((readsOf i).axis = true → ((makeInst i p).n : Int) = p.n ∧ ((makeInst i p).o : Int) = p.o) ∧
      ((readsOf i).lanes = true → ((makeInst i p).e : Int) = p.e) := by
  obtain ⟨hbatch, hbitwidth, hdepth, haxis, hlanes⟩ := paramsInRange_iff.1 h
  have hcast {v : Int} (hv : 1 ≤ v) : (v.toNat : Int) = v := Int.toNat_of_nonneg (Int.le_trans Int.one_nonneg hv)
  refine ⟨hcast hbatch, fun hr => ?_, fun hr => ?_, fun hr => ?_, fun hr => ?_⟩
  · rw [makeInst_bitwidth p hr, hcast (hbitwidth hr)]
  · rw [makeInst_depth p hr, hcast (hdepth hr)]
  · obtain ⟨hn, ho⟩ := haxis hr
    rw [makeInst_n p hr, makeInst_o p hr, hcast hn, hcast ho]
    exact ⟨rfl, rfl⟩
  · rw [makeInst_e p hr, hcast (hlanes hr)]

/-- R60 to R64: the unit made of an admissible record has the tables given; the second and the bias sequence default
to the first (R113, R135). -/
theorem makeInst_tables {i : Instr} {p : Params} (h : Admissible i p) :
    ((readsOf i).seq = true → p.seq = some (makeInst i p).seq) ∧
      ((readsOf i).seq0 = true → (makeInst i p).seq0 = p.seq0.getD (makeInst i p).seq) ∧
      ((readsOf i).seqb = true → (makeInst i p).seqb = p.seqb.getD (makeInst i p).seq) ∧
      ((readsOf i).mux = true → p.muxSeq = some (makeInst i p).muxSeq) ∧
      ((readsOf i).m = true → p.m = some (makeInst i p).m) ∧
      ((readsOf i).mw = true → p.mw = some (makeInst i p).mw) ∧
      ((readsOf i).mb = true → p.mb = some (makeInst i p).mb) ∧
      ((readsOf i).w = true → p.w = some (makeInst i p).w) ∧
      ((readsOf i).c = true → p.c = some (makeInst i p).c) := by
  obtain ⟨-, hseq0, hseqb, -⟩ := readsOf_of_table i
  obtain ⟨hseq, -⟩ := supplied_iff.1 h.seq
  obtain ⟨hmux, -⟩ := supplied_iff.1 h.mux
  obtain ⟨hm, -⟩ := supplied_iff.1 h.m
  obtain ⟨hmw, -⟩ := supplied_iff.1 h.mw
  obtain ⟨hmb, -⟩ := supplied_iff.1 h.mb
  obtain ⟨hw, -⟩ := supplied_iff.1 h.w
  obtain ⟨hc, -⟩ := supplied_iff.1 h.c
  refine ⟨eq_some_whenRead_getD hseq, fun hr => ?_, fun hr => ?_, eq_some_whenRead_getD hmux, eq_some_whenRead_getD hm,
    eq_some_whenRead_getD hmw, eq_some_whenRead_getD hmb, eq_some_whenRead_getD hw, eq_some_whenRead_getD hc⟩
  · rw [makeInst_seq0 p hr, makeInst_seq p (hseq0 hr)]
  · rw [makeInst_seqb p hr, makeInst_seq p (hseqb hr)]

/-- Settles O20: the checks of CONSTRUCT pass exactly for an admissible record, and the unit made is the one the
record describes. -/
theorem constructCreatesExactlyAdmissibleInstances : Obligations.ConstructCreatesExactlyAdmissibleInstances := by
  intro s c i hc hi
  have hbuild : buildDesc c.desc c.params = build i c.params := by rw [buildDesc, hi]
  refine ⟨fun h => ?_, fun h => exec_construct_of_not_made hc fun n hn => ?_⟩
  · have hmade := hbuild.trans (build_made_of_admissible h)
    obtain ⟨hbatch, hbitwidth, hdepth, haxis, hlanes⟩ := makeInst_sizes h.params
    exact ⟨makeInst i c.params, exec_construct_of_made hc hmade, rfl, rfl, rfl, hbatch, legal_of_buildDesc hmade,
      hbitwidth, hdepth, haxis, hlanes, makeInst_tables h⟩
  · exact h (admissible_of_build_made (hbuild.symm.trans hn))

end Sys2Proof.Machine

/-! PROOFS of the families of exceptions and of reset (`spec/60_exceptions.md`, `spec/70_reset_and_hazards.md`): a
STEP or REPLACE that finds no live unit at its handle is refused, and reset is the base case of the invariant of the
units. -/

namespace Sys2Proof.Machine

/-! ### No live unit at the handle -/

section

variable {s : State} {c : Command}

theorem execStep_of_unknown (hc : s.commands.head? = some c) (hn : s.insts[c.inst]? = none) :
    execStep s = decline s c .noInstance := by
  rw [execStep, commands_eq_cons hc]
  simp only [hn]

theorem execReplace_of_unknown (hc : s.commands.head? = some c) (hn : s.insts[c.inst]? = none) :
    execReplace s = decline s c .noInstance := by
  rw [execReplace, commands_eq_cons hc]
  simp only [hn]

theorem execReplace_of_dead {n : Inst} (hc : s.commands.head? = some c) (hn : s.insts[c.inst]? = some n)
    (hdead : n.dead = true) : execReplace s = decline s c .deadInstance := by
  rw [execReplace, commands_eq_cons hc]
  simp only [hn, Inst.isDead, hdead, if_true]

/-- U5, U7: a handle that names no unit is refused by STEP and by REPLACE. -/
theorem step_of_unknown (hc : s.commands.head? = some c) (hcode : c.code = 1 ∨ c.code = 2)
    (hn : s.insts[c.inst]? = none) : step s = decline s c .noInstance := by
  rw [step_of_presented hc]
  rcases hcode with hcode | hcode
  · rw [hcode]
    exact execStep_of_unknown hc hn
  · rw [hcode]
    exact execReplace_of_unknown hc hn

/-- R197: a dead unit is refused by STEP and by REPLACE. A STEP reaches the refusal inside the cycle of the unit's
operation, so that operation must be one a unit can have. -/
theorem step_of_dead {n : Inst} (hc : s.commands.head? = some c) (hcode : c.code = 1 ∨ c.code = 2)
    (hn : s.insts[c.inst]? = some n) (hdead : n.dead = true) (hlegal : n.Legal) :
    step s = decline s c .deadInstance := by
  rcases hcode with hcode | hcode
  · obtain ⟨body, hbody⟩ := exists_bodyOf_of_legal hlegal
    exact (step_of_stepCommand hc hcode hn hbody).trans (cycle_of_dead body hc hn hdead)
  · rw [step_of_presented hc, hcode]
    exact execReplace_of_dead hc hn hdead

end

/-- Settles O18: the handle is looked up before anything else of the command is read. -/
theorem deadOrUnknownInstanceIsRefused : Obligations.DeadOrUnknownInstanceIsRefused :=
  fun _ _ hc hcode => ⟨step_of_unknown hc hcode, fun _ hn hdead hlegal => step_of_dead hc hcode hn hdead hlegal⟩

/-! ### Reset -/

/-- R218: without a unit, no unit is illegal. -/
theorem legal_of_no_insts {s : State} (h : s.insts = []) : s.Legal := fun n hn => by
  rw [h] at hn
  exact absurd hn List.not_mem_nil

/-- Settles O9: reset leaves no unit that could be illegal and no command to run. -/
theorem resetStateIsLegal : Obligations.ResetStateIsLegal := by
  obtain ⟨-, -, hidle⟩ := stepRunsTheDecodedInstruction
  exact ⟨legal_of_no_insts rfl, rfl, hidle State.reset rfl⟩

end Sys2Proof.Machine
